-- ==== Sys2Proof/Word.lean ====
section
/-! DEFINITION. The words of the engine and the names its rules use: cell values, widths, addresses, command words, schemes, tables and micro-operations. -/

namespace Sys2Proof

/-- The value of one counter cell: an unsigned 2-bit number (10_state R10, 40_counter R70). -/
abbrev Counter := BitVec 2

/-- A table exponent or the history width as CONFIGURE carries it: 6 bits, unsigned (30_encoding R54). -/
abbrev Exponent := BitVec 6

/-- The address operand of an EVENT, `AW = 32` bits (00_scope R4, 30_encoding R52; log 1). -/
abbrev Addr := BitVec 32

/-- A command word, `AW + 3 = 35` bits (30_encoding R51). -/
abbrev CmdWord := BitVec 35

/-- The control input of one counter cell, bits `{en, up}` (30_encoding R57). -/
abbrev CtlWord := BitVec 2

/-- The three schemes (00_scope R2). -/
inductive Scheme where
  | bimodal
  | gshare
  | hybrid
deriving DecidableEq, Repr, Inhabited

/-- The three counter tables, each an address space of its own (20_memory R31). -/
inductive TableId where
  | bim
  | gsh
  | cho
deriving DecidableEq, Repr

/-- One counter cell: a table and an index in it (20_memory R31, R35). -/
structure CellRef where
  table : TableId
  index : Nat
deriving DecidableEq, Repr

/-- The three micro-operations of a counter cell (40_counter R71 to R73). -/
inductive MicroOp where
  | hold
  | dec
  | inc
deriving DecidableEq, Repr

end Sys2Proof
end

