-- ==== Sys2Proof/Config.lean ====
section
/-! DEFINITION. What an implementation fixes (the address width) and the values the spec leaves unspecified (opaque: nothing can be proved of them). -/

namespace Sys2Proof.Config

/-- `AW`, the address width: the default of 00_scope R4, which every encoding of the spec uses (log 1). -/
abbrev AW : Nat := 32

/-- The largest exponent a consumed table may have, `AW - 2` (60_exceptions R138; log 2). -/
abbrev WMAX : Nat := AW - 2

/-- FREE VALUE: `CFG.SCHEME` after a ConfigError or the reset pin (60_exceptions R141, 10_state R22; log 6).
One of the three codes, because 3 is never stored (10_state R16). -/
opaque unspecifiedScheme : Nat → Scheme

/-- FREE VALUE: `CFG.K`, likewise (log 6). -/
opaque unspecifiedK : Nat → Exponent

/-- FREE VALUE: `CFG.M1`, likewise (log 6). -/
opaque unspecifiedM1 : Nat → Exponent

/-- FREE VALUE: `CFG.N`, likewise (log 6). -/
opaque unspecifiedN : Nat → Exponent

/-- FREE VALUE: `CFG.M2`, likewise (log 6). -/
opaque unspecifiedM2 : Nat → Exponent

/-- FREE VALUE: `NPRED` after the reset pin (10_state R22; log 16). -/
opaque unspecifiedNpred : Nat → Nat

/-- FREE VALUE: `NMISP` after the reset pin, before its bound `NMISP <= NPRED` is applied (10_state R17, R22; log 16). -/
opaque unspecifiedNmisp : Nat → Nat

end Sys2Proof.Config
end

