-- ==== Sys2Proof/Syntax.lean ====
section
/-! DEFINITION. The instructions: one constructor per row of spec/opcode_table.json (30_encoding R65). -/

namespace Sys2Proof

/-- The eight operations that have an encoding (30_encoding R65). -/
inductive Instr where
  /-- CONFIGURE (45_system R121). `sch = none` is scheme code 3: a name that is none of the three (30_encoding R54). -/
  | configure (sch : Option Scheme) (k m1 n m2 : Exponent)
  /-- The EVENT command under `CFG.SCHEME` = bimodal (42_bimodal R90); `taken` is the outcome (30_encoding R53). -/
  | puBimodal (taken : Bool) (a : Addr)
  /-- The EVENT command under `CFG.SCHEME` = gshare (43_gshare R98). -/
  | puGshare (taken : Bool) (a : Addr)
  /-- The EVENT command under `CFG.SCHEME` = hybrid (44_hybrid R108). -/
  | puHybrid (taken : Bool) (a : Addr)
  /-- REPORT (45_system R126). -/
  | report
  /-- CTR.HOLD at the control input of `cell`; `up` may have either value (40_counter R73, 30_encoding R57; log 9). -/
  | ctrHold (cell : CellRef) (up : Bool)
  /-- CTR.DEC at the control input of `cell` (40_counter R72; log 9). -/
  | ctrDec (cell : CellRef)
  /-- CTR.INC at the control input of `cell` (40_counter R71; log 9). -/
  | ctrInc (cell : CellRef)
deriving DecidableEq, Repr

end Sys2Proof
end

