-- ==== Sys2Proof/WellFormed.lean ====
section
/-! DEFINITION. The check an instruction must pass to be one of this hardware's. Every other bound of an operand is in its type. -/

namespace Sys2Proof

/-- A cell that some legal configuration has: the largest table has `2^WMAX` cells (20_memory R35, 60_exceptions R138). -/
def CellRef.wf (c : CellRef) : Bool := decide (c.index < 2 ^ Config.WMAX)

/-- Well-formed instructions. -/
def Instr.wf : Instr → Bool
  | .configure _ _ _ _ _ => true
  | .puBimodal _ _ => true
  | .puGshare _ _ => true
  | .puHybrid _ _ => true
  | .report => true
  | .ctrHold cell _ => cell.wf
  | .ctrDec cell => cell.wf
  | .ctrInc cell => cell.wf

end Sys2Proof
end

