-- ==== Sys2Proof/Decode.lean ====
section
/-! DEFINITION. The decoder, total on every word and rejecting reserved words by name; after it the encoder, and the assembly lines of the spec. -/

namespace Sys2Proof

/-- What the engine can be given in one step: a command word from the driver (30_encoding R51), a control word at
one cell's control input (30_encoding R57; log 9), or the optional electrical reset pin (70_reset R155; log 16). -/
inductive Input where
  | command (w : CmdWord)
  | control (cell : CellRef) (w : CtlWord)
  | resetPin
deriving DecidableEq, Repr

/-- A decoded command word (30_encoding R64). -/
inductive Command where
  | configure (sch : Option Scheme) (k m1 n m2 : Exponent)
  | event (taken : Bool) (a : Addr)
  | report
deriving DecidableEq, Repr

/-- The reserved classes of command words, items 1 to 3 of 30_encoding R59. -/
inductive ReservedClass where
  /-- Item 1: `cmd = 3`. -/
  | cmdThree
  /-- Item 2: a CONFIGURE word with a bit of `z` set. -/
  | configureZ
  /-- Item 3: a REPORT word with a payload bit set. -/
  | reportPayload
deriving DecidableEq, Repr

/-- The scheme a 2-bit code names; 3 names none (30_encoding R54). -/
def schemeOfCode (c : BitVec 2) : Option Scheme :=
  if c = 0 then some .bimodal
  else if c = 1 then some .gshare
  else if c = 2 then some .hybrid
  else none

/-- The code of a scheme operand (30_encoding R54). -/
def codeOfScheme : Option Scheme → BitVec 2
  | some .bimodal => 0
  | some .gshare => 1
  | some .hybrid => 2
  | none => 3

/-- Decoding reads the word alone (30_encoding R51 to R55, R59, R64). -/
def decodeCommand (w : CmdWord) : Except ReservedClass Command :=
  if w.extractLsb' 33 2 = 0 then
    if w.extractLsb' 26 7 = 0 then
      .ok (.configure (schemeOfCode (w.extractLsb' 24 2)) (w.extractLsb' 18 6) (w.extractLsb' 12 6)
        (w.extractLsb' 6 6) (w.extractLsb' 0 6))
    else .error .configureZ
  else if w.extractLsb' 33 2 = 1 then .ok (.event (w.getLsbD 32) (w.extractLsb' 0 32))
  else if w.extractLsb' 33 2 = 2 then
    if w.extractLsb' 0 33 = 0 then .ok .report else .error .reportPayload
  else .error .cmdThree

/-- The operation an EVENT performs, by the mode register `CFG.SCHEME` (30_encoding R56, 45_system R122). -/
def eventInstr (mode : Scheme) (taken : Bool) (a : Addr) : Instr :=
  match mode with
  | .bimodal => .puBimodal taken a
  | .gshare => .puGshare taken a
  | .hybrid => .puHybrid taken a

/-- The instruction a decoded command is under a mode. -/
def commandInstr (mode : Scheme) : Command → Instr
  | .configure sch k m1 n m2 => .configure sch k m1 n m2
  | .event taken a => eventInstr mode taken a
  | .report => .report

/-- The micro-operation a control word `{en, up}` stands for, at one cell (30_encoding R57). -/
def decodeControl (cell : CellRef) (w : CtlWord) : Instr :=
  if w.getLsbD 1 then (if w.getLsbD 0 then .ctrInc cell else .ctrDec cell)
  else .ctrHold cell (w.getLsbD 0)

/-- The instruction an input carries under a mode; none for a reserved word and for the reset pin. -/
def decodeInput (mode : Scheme) : Input → Option Instr
  | .command w =>
    match decodeCommand w with
    | .ok c => some (commandInstr mode c)
    | .error _ => none
  | .control cell w => some (decodeControl cell w)
  | .resetPin => none

/-- The mode under which an instruction is what its word means; none where the word has one meaning (30_encoding R56). -/
def Instr.mode? : Instr → Option Scheme
  | .puBimodal _ _ => some .bimodal
  | .puGshare _ _ => some .gshare
  | .puHybrid _ _ => some .hybrid
  | .configure _ _ _ _ _ => none
  | .report => none
  | .ctrHold _ _ => none
  | .ctrDec _ => none
  | .ctrInc _ => none

/-- The cell a table word of format CT drives when the host presents it: the word itself names none (log 9, log 18). -/
def tableCell : CellRef := ⟨.bim, 0⟩

/-- A table word as an input: rows of one byte are format CT, wider ones are command words.
The pad bits of the last byte are no part of the word (log 18). -/
def tableInput (nbits w : Nat) : Input :=
  if nbits ≤ 8 then .control tableCell (BitVec.ofNat 2 w) else .command (BitVec.ofNat 35 w)

/-- The decoder on a word of the opcode table. The EVENT word is read under mode bimodal, code 0 (log 10). -/
def decodeTableWord (nbits w : Nat) : Option Instr := decodeInput .bimodal (tableInput nbits w)

/-! ### The encoder -/

/-- Format CF (30_encoding R54): `cmd = 00`, `z = 0`, `s`, `K`, `M1`, `N`, `M2`. -/
def encodeConfigure (sch : Option Scheme) (k m1 n m2 : Exponent) : CmdWord :=
  0#2 ++ (0#7 ++ (codeOfScheme sch ++ (k ++ (m1 ++ (n ++ m2)))))

/-- Format EV (30_encoding R52): `cmd = 01`, `o`, `a`. -/
def encodeEvent (taken : Bool) (a : Addr) : CmdWord := 1#2 ++ (BitVec.ofBool taken ++ a)

/-- Format RP (30_encoding R55): `cmd = 10`, payload 0. -/
def encodeReport : CmdWord := 2#2 ++ 0#33

/-- Format CT (30_encoding R57): bit 1 `en`, bit 0 `up`. -/
def encodeControl (en up : Bool) : CtlWord := BitVec.ofBool en ++ BitVec.ofBool up

/-- The word of an instruction, and where it is presented. -/
def encode : Instr → Input
  | .configure sch k m1 n m2 => .command (encodeConfigure sch k m1 n m2)
  | .puBimodal taken a => .command (encodeEvent taken a)
  | .puGshare taken a => .command (encodeEvent taken a)
  | .puHybrid taken a => .command (encodeEvent taken a)
  | .report => .command encodeReport
  | .ctrHold cell up => .control cell (encodeControl false up)
  | .ctrDec cell => .control cell (encodeControl true false)
  | .ctrInc cell => .control cell (encodeControl true true)

/-! ### Assembly lines, after lexing (30_encoding R60, R62) -/

/-- One assembly line with its numbers and token read. -/
inductive AsmLine where
  | configureBimodal (m2 : Exponent)
  | configureGshare (m1 n : Exponent)
  | configureHybrid (k m1 n m2 : Exponent)
  /-- `configure <name> ...` with a name that is none of the three (30_encoding R62). -/
  | configureOther (k m1 n m2 : Exponent)
  | event (a : Addr) (token : Char)
  | report
deriving DecidableEq, Repr

/-- `t` is taken; every other token is not-taken (30_encoding R53, R59 item 5). -/
def outcomeOfToken (token : Char) : Bool := token == 't'

/-- One line is one command word; fields the line does not give are zero (30_encoding R60, R62). -/
def assemble : AsmLine → CmdWord
  | .configureBimodal m2 => encodeConfigure (some .bimodal) 0 0 0 m2
  | .configureGshare m1 n => encodeConfigure (some .gshare) 0 m1 n 0
  | .configureHybrid k m1 n m2 => encodeConfigure (some .hybrid) k m1 n m2
  | .configureOther k m1 n m2 => encodeConfigure none k m1 n m2
  | .event a token => encodeEvent (outcomeOfToken token) a
  | .report => encodeReport

end Sys2Proof
end

