-- ==== Sys2Proof/Machine/State.lean ====
section
/-! DEFINITION. The state of the engine as plain data, the reasons a step can stop, and the state at power-on. -/

namespace Sys2Proof.Machine

/-- The life-cycle phase `PHASE` (10_state R18). -/
inductive Phase where
  | unconfigured
  | ready
  | error
deriving DecidableEq, Repr

/-- The error code `ERR` (60_exceptions R135). -/
inductive ErrCode where
  /-- 0, `ERR_NONE`. -/
  | noError
  /-- 1, `ERR_SCHEME` (60_exceptions R136). -/
  | scheme
  /-- 2, `ERR_HIST_WIDTH` (60_exceptions R137). -/
  | histWidth
  /-- 3, `ERR_INDEX_WIDTH` (60_exceptions R138). -/
  | indexWidth
deriving DecidableEq, Repr

/-- The configuration registers `CFG.*` (10_state R16). -/
structure Cfg where
  scheme : Scheme
  k : Exponent
  m1 : Exponent
  n : Exponent
  m2 : Exponent
deriving DecidableEq, Repr

/-- The three counter tables (20_memory R31), each the list of its cells that do not hold the construction value,
in rising order of index (log 8). -/
structure Memory where
  bim : List (Nat × Counter)
  gsh : List (Nat × Counter)
  cho : List (Nat × Counter)
deriving DecidableEq, Repr

/-- The misprediction rate: an exact rational, or the distinct value `NoData` (45_system R128, R129; log 14). -/
inductive Rate where
  | noData
  | percent (r : Rat)
deriving DecidableEq, Repr

/-- The scheme with the parameters it consumes (00_scope R3, 45_system R126). -/
inductive SchemeParams where
  | bimodal (m2 : Exponent)
  | gshare (m1 n : Exponent)
  | hybrid (k m1 n m2 : Exponent)
deriving DecidableEq, Repr

/-- The record of REPORT in READY (45_system R126). -/
structure RunReport where
  params : SchemeParams
  predictions : Nat
  mispredictions : Nat
  rate : Rate
  /-- The owned tables in report order, each as its (index, value) pairs by ascending index (45_system R127). -/
  tables : List (TableId × List (Nat × Counter))
deriving DecidableEq, Repr

/-- What a command returns to the driver (30_encoding R63, 45_system R130). -/
inductive Response where
  /-- CONFIGURE was accepted. -/
  | accepted
  /-- CONFIGURE was rejected with this code. -/
  | rejected (code : ErrCode)
  /-- The two results of an EVENT. -/
  | event (correct predTaken : Bool)
  /-- The record of REPORT in READY. -/
  | report (r : RunReport)
  /-- The record of REPORT in ERROR: `PHASE` and `ERR` only. -/
  | errorReport (phase : Phase) (err : ErrCode)
deriving DecidableEq, Repr

/-- Every piece of state of 10_state section 1, and three fields of the model's own. -/
structure State where
  /-- `PHASE`. -/
  phase : Phase
  /-- `ERR`. -/
  err : ErrCode
  /-- `CFG.SCHEME`, `CFG.K`, `CFG.M1`, `CFG.N`, `CFG.M2`. -/
  cfg : Cfg
  /-- `BIM`, `GSH`, `CHO`. -/
  mem : Memory
  /-- `GHR`, a number below `2^N` (43_gshare R96). -/
  ghr : Nat
  /-- `NPRED` (10_state R17; log 13). -/
  npred : Nat
  /-- `NMISP` (10_state R17; log 13). -/
  nmisp : Nat
  /-- The model's own: what the driver is still to present, first one first (log 3). -/
  input : List Input
  /-- The model's own: the result the last command returned (log 4). -/
  response : Option Response
  /-- The model's own: picks the next free value (log 6). -/
  draws : Nat
deriving DecidableEq, Repr

/-- The machine stops with a fault. -/
inductive Fault where
  /-- Raised by CTR.HOLD, CTR.DEC and CTR.INC at a cell that does not exist (20_memory R34, R35; log 12).
  Safe: nothing is claimed of such a drive. -/
  | noSuchCell
deriving DecidableEq, Repr

/-- The step has no meaning and nothing may be proved past it (60_exceptions R143). -/
inductive Refusal where
  /-- Raised by exec for an instruction that has no meaning yet. Safe: the run stops. -/
  | notModelled (mnemonic : String)
  /-- Raised by step for a reserved command word (30_encoding R59 items 1 to 3, 60_exceptions R143). Safe: the run stops. -/
  | reservedWord (cls : ReservedClass)
  /-- Raised by an EVENT when `PHASE` is not READY (60_exceptions R143). Safe: the run stops. -/
  | eventOutsideReady
  /-- Raised by REPORT when `PHASE` is UNCONFIGURED (60_exceptions R143, 45_system R130). Safe: the run stops. -/
  | reportUnconfigured
  /-- Raised by a PU operation that `CFG.SCHEME` does not select (30_encoding R56, 45_system R122; log 11).
  Safe: no command of the machine performs it. -/
  | operationNotSelected
deriving DecidableEq, Repr

/-- No cell listed: every cell at its construction value. -/
def Memory.empty : Memory := ⟨[], [], []⟩

/-- Power-on (10_state R22): `PHASE` = UNCONFIGURED, `ERR` = 0, no table and no history register.
`CFG.*`, `NPRED` and `NMISP` are unspecified there; their values are the model's (log 5). -/
def State.reset : State where
  phase := .unconfigured
  err := .noError
  cfg := ⟨.bimodal, 0, 0, 0, 0⟩
  mem := .empty
  ghr := 0
  npred := 0
  nmisp := 0
  input := []
  response := none
  draws := 0

end Sys2Proof.Machine
end

