-- ==== Sys2Proof/Machine/Operands.lean ====
section
/-! DEFINITION. Operand assembly: cutting table indices out of the address and folding the history in (30_encoding R58, 41_index).
Every quantity is a natural number, as 00_scope section 5 says. -/

namespace Sys2Proof.Machine

/-- `mask(W) = 2^W - 1` (00_scope section 5). -/
def mask (w : Nat) : Nat := 2 ^ w - 1

/-- `v[lo+width-1 : lo]`, 0 for the empty slice (00_scope section 5). -/
def slice (v lo width : Nat) : Nat := (v >>> lo) % 2 ^ width

/-- `idx_bimodal(a)` (41_index R80). -/
def idxBimodal (m2 a : Nat) : Nat := (a >>> 2) &&& mask m2

/-- `idx_chooser(a)` (41_index R81). -/
def idxChooser (k a : Nat) : Nat := (a >>> 2) &&& mask k

/-- `pc_upper_n` (41_index R82). -/
def pcUpperN (m1 n a : Nat) : Nat := (a >>> (m1 - n + 2)) &&& mask n

/-- `folded` (41_index R82). -/
def folded (m1 n a h : Nat) : Nat := pcUpperN m1 n a ^^^ (h &&& mask n)

/-- `pc_lower` (41_index R82). -/
def pcLower (m1 n a : Nat) : Nat := (a >>> 2) &&& mask (m1 - n)

/-- `idx_gshare(a, h)` (41_index R82). -/
def idxGshare (m1 n a h : Nat) : Nat := (folded m1 n a h <<< (m1 - n)) ||| pcLower m1 n a

/-- `hist_shift(h, outcome)`, 0 when the register has no bits (43_gshare R95). -/
def histShift (n h : Nat) (outcome : Bool) : Nat :=
  if n = 0 then 0 else ((h >>> 1) ||| (if outcome then 2 ^ (n - 1) else 0)) &&& mask n

/-- The exponent of a table's size (10_state R12 to R14). -/
def tableExponent (t : TableId) (c : Cfg) : Nat :=
  match t with
  | .bim => c.m2.toNat
  | .gsh => c.m1.toNat
  | .cho => c.k.toNat

/-- The `BIM` index of an event in a state. -/
def bimIndex (a : Addr) (s : State) : Nat := idxBimodal s.cfg.m2.toNat a.toNat

/-- The `GSH` index of an event in a state, from the `GHR` it holds (41_index R86). -/
def gshIndex (a : Addr) (s : State) : Nat := idxGshare s.cfg.m1.toNat s.cfg.n.toNat a.toNat s.ghr

/-- The `CHO` index of an event in a state. -/
def choIndex (a : Addr) (s : State) : Nat := idxChooser s.cfg.k.toNat a.toNat

end Sys2Proof.Machine
end

