-- ==== Sys2Proof/Machine/Flags.lean ====
section
/-! DEFINITION. The conditions computed from counters and outcomes. The engine has no flag register (10_state R23): these are
the direction a cell predicts, the selection of the chooser, the correctness flag, the drive of a cell, and the codes of PHASE and ERR. -/

namespace Sys2Proof.Machine

/-- `is_taken(c)` (40_counter R75). -/
def isTaken (c : Counter) : Bool := decide (2 ≤ c.toNat)

/-- `sel_gshare(c)` (40_counter R76). -/
def selGshare (c : Counter) : Bool := decide (2 ≤ c.toNat)

/-- The correctness flag: the prediction equals the outcome (30_encoding R63). -/
def correctFlag (predTaken outcome : Bool) : Bool := predTaken == outcome

/-- The micro-operation of a control input `{en, up}` (30_encoding R57). -/
def microOp (en up : Bool) : MicroOp :=
  if en then (if up then .inc else .dec) else .hold

/-- The drive of a predictor cell by a branch outcome: `en = 1, up = outcome` (40_counter R74). -/
def updDrive (outcome : Bool) : MicroOp := microOp true outcome

/-- `cho_drive(gc, bc)`: `en = gc XOR bc, up = gc` (44_hybrid R106). -/
def choDrive (gshareCorrect bimodalCorrect : Bool) : MicroOp :=
  microOp (gshareCorrect ^^ bimodalCorrect) gshareCorrect

/-- The packed result of an EVENT, `{pred_taken, correct}` (30_encoding R63). -/
def packEventResult (correct predTaken : Bool) : BitVec 2 :=
  BitVec.ofBool predTaken ++ BitVec.ofBool correct

/-- The 2-bit code of `PHASE` (10_state R18). -/
def phaseCode : Phase → BitVec 2
  | .unconfigured => 0
  | .ready => 1
  | .error => 2

/-- The 3-bit code of `ERR` (60_exceptions R135). -/
def errCode : ErrCode → BitVec 3
  | .noError => 0
  | .scheme => 1
  | .histWidth => 2
  | .indexWidth => 3

end Sys2Proof.Machine
end

