-- ==== Sys2Proof/Machine/Ops.lean ====
section
/-! DEFINITION. The operations the meanings share: the counter cell, the tables, the statistics and results, construction, and
taking the one exception, ConfigError. -/

namespace Sys2Proof.Machine

/-! ### The counter cell -/

/-- `inc(c) = min(c + 1, 3)` (40_counter R71). -/
def inc (c : Counter) : Counter := BitVec.ofNat 2 (min (c.toNat + 1) 3)

/-- `dec(c) = max(c - 1, 0)`, on natural numbers (40_counter R72). -/
def dec (c : Counter) : Counter := BitVec.ofNat 2 (c.toNat - 1)

/-- `hold(c) = c` (40_counter R73). -/
def hold (c : Counter) : Counter := c

/-- The effect of a micro-operation on a cell value (40_counter R77). -/
def applyMicroOp (op : MicroOp) (c : Counter) : Counter :=
  match op with
  | .hold => hold c
  | .dec => dec c
  | .inc => inc c

/-- `upd(c, outcome)` (40_counter R74). -/
def upd (c : Counter) (outcome : Bool) : Counter := applyMicroOp (updDrive outcome) c

/-- `cho_upd(c, gc, bc)` (44_hybrid R107). -/
def choUpd (c : Counter) (gshareCorrect bimodalCorrect : Bool) : Counter :=
  applyMicroOp (choDrive gshareCorrect bimodalCorrect) c

/-! ### Cells as sparse lists -/

/-- The value construction gives every cell of a table: what an unlisted cell reads as (10_state R21; log 8). -/
def resetValue : TableId → Counter
  | .bim => 2
  | .gsh => 2
  | .cho => 1

/-- The value listed for an index, `d` if none is. -/
def readCells (d : Counter) : List (Nat × Counter) → Nat → Counter
  | [], _ => d
  | (k, v) :: rest, i => if k = i then v else readCells d rest i

/-- An entry put before the first entry of a greater index. -/
def insertCell (i : Nat) (v : Counter) : List (Nat × Counter) → List (Nat × Counter)
  | [] => [(i, v)]
  | (k, w) :: rest => if i < k then (i, v) :: (k, w) :: rest else (k, w) :: insertCell i v rest

/-- An index's entry replaced; none is kept for the value an unlisted cell reads as. -/
def writeCells (d : Counter) (l : List (Nat × Counter)) (i : Nat) (v : Counter) : List (Nat × Counter) :=
  if v = d then l.filter (fun e => e.1 != i) else insertCell i v (l.filter (fun e => e.1 != i))

/-- The canonical form: indices strictly rising, no entry equal to `d`. -/
def cellsWf (d : Counter) : List (Nat × Counter) → Bool
  | [] => true
  | (k, v) :: rest => v != d && rest.all (fun e => decide (k < e.1)) && cellsWf d rest

/-- Every listed index is below a bound. -/
def cellsBelow (bound : Nat) (l : List (Nat × Counter)) : Bool := l.all (fun e => decide (e.1 < bound))

/-! ### The three tables -/

/-- The listed cells of a table. -/
def Memory.cells (m : Memory) : TableId → List (Nat × Counter)
  | .bim => m.bim
  | .gsh => m.gsh
  | .cho => m.cho

/-- The listed cells of one table replaced; the spaces are disjoint (20_memory R31). -/
def Memory.setCells (m : Memory) (t : TableId) (l : List (Nat × Counter)) : Memory :=
  match t with
  | .bim => { m with bim := l }
  | .gsh => { m with gsh := l }
  | .cho => { m with cho := l }

/-- The content of a cell. -/
def Memory.read (m : Memory) (t : TableId) (i : Nat) : Counter := readCells (resetValue t) (m.cells t) i

/-- A cell's content replaced and nothing else changed. -/
def Memory.write (m : Memory) (t : TableId) (i : Nat) (v : Counter) : Memory :=
  m.setCells t (writeCells (resetValue t) (m.cells t) i v)

/-- The canonical form of all three tables. -/
def Memory.wf (m : Memory) : Bool :=
  cellsWf (resetValue .bim) m.bim && cellsWf (resetValue .gsh) m.gsh && cellsWf (resetValue .cho) m.cho

/-! ### Which state exists (10_state R19) -/

/-- The tables a scheme owns. -/
def schemeOwns (sch : Scheme) (t : TableId) : Bool :=
  match sch, t with
  | .bimodal, .bim => true
  | .bimodal, .gsh => false
  | .bimodal, .cho => false
  | .gshare, .bim => false
  | .gshare, .gsh => true
  | .gshare, .cho => false
  | .hybrid, .bim => true
  | .hybrid, .gsh => true
  | .hybrid, .cho => true

/-- A table exists when a predictor instance exists (`PHASE` = READY) and its scheme owns it. -/
def State.owns (s : State) (t : TableId) : Bool := decide (s.phase = .ready) && schemeOwns s.cfg.scheme t

/-- The number of cells of a table: `2^W`, and 0 for a table that does not exist (10_state R11, R19; log 7). -/
def State.size (s : State) (t : TableId) : Nat := if s.owns t then 2 ^ tableExponent t s.cfg else 0

/-- The cell exists (20_memory R34). -/
def State.hasCell (s : State) (c : CellRef) : Bool := decide (c.index < s.size c.table)

/-- `GHR` exists exactly when `GSH` does, with `N` bits; no bits otherwise (10_state R15, R19; log 7). -/
def State.ghrWidth (s : State) : Nat := if s.owns .gsh then s.cfg.n.toNat else 0

/-! ### The primitives of 20_memory R34 -/

/-- `TblRead(T, i)`. -/
def State.tblRead (s : State) (t : TableId) (i : Nat) : Counter := s.mem.read t i

/-- `TblWrite(T, i, v)`. -/
def State.tblWrite (s : State) (t : TableId) (i : Nat) (v : Counter) : State :=
  { s with mem := s.mem.write t i v }

/-! ### Named updates of the registers -/

/-- `GHR <- hist_shift(GHR, outcome)` (43_gshare R95). -/
def State.shiftHistory (s : State) (outcome : Bool) : State :=
  { s with ghr := histShift s.cfg.n.toNat s.ghr outcome }

/-- A result is returned to the driver (30_encoding R63; log 4). -/
def State.respond (s : State) (r : Response) : State := { s with response := some r }

/-- The inputs still to be presented (log 3). -/
def State.setInput (s : State) (l : List Input) : State := { s with input := l }

/-- `NPRED <- NPRED + 1; NMISP <- NMISP + (correct ? 0 : 1)` (45_system R124). -/
def State.count (s : State) (correct : Bool) : State :=
  { s with npred := s.npred + 1, nmisp := s.nmisp + (if correct then 0 else 1) }

/-- The statistics and the two results of an event (45_system R124, 30_encoding R63). -/
def State.finishEvent (s : State) (predTaken outcome : Bool) : State :=
  (s.count (correctFlag predTaken outcome)).respond (.event (correctFlag predTaken outcome) predTaken)

/-! ### Events and cell drives -/

/-- An EVENT under scheme `sch` that leads from `s` to `s'`: refused outside READY (60_exceptions R143), and no operation
of the machine where `CFG.SCHEME` holds another scheme (30_encoding R56, 45_system R122; log 11). -/
def performEvent (sch : Scheme) (s s' : State) : Host.Outcome State Fault Refusal :=
  if s.phase = .ready then
    if s.cfg.scheme = sch then .next s' else .refused .operationNotSelected
  else .refused .eventOutsideReady

/-- One cell's control input driven with a micro-operation (30_encoding R57, 40_counter R71 to R73);
a cell that does not exist cannot be driven (20_memory R34; log 12). -/
def driveCell (op : MicroOp) (c : CellRef) (s : State) : Host.Outcome State Fault Refusal :=
  if s.hasCell c then .next (s.tblWrite c.table c.index (applyMicroOp op (s.tblRead c.table c.index)))
  else .fault .noSuchCell

/-! ### Construction, and the exception -/

/-- The exponents fit: `W + 2 <= AW` (60_exceptions R138; log 2). -/
def widthFits (w : Exponent) : Bool := decide (w.toNat + 2 ≤ Config.AW)

/-- `config_check` for a scheme that has a name: the checks after the first, in their order (60_exceptions R139). -/
def schemeCheck (sch : Scheme) (k m1 n m2 : Exponent) : ErrCode :=
  if schemeOwns sch .gsh && decide (m1.toNat < n.toNat) then .histWidth
  else if schemeOwns sch .bim && !widthFits m2 then .indexWidth
  else if schemeOwns sch .gsh && !widthFits m1 then .indexWidth
  else if schemeOwns sch .cho && !widthFits k then .indexWidth
  else .noError

/-- `config_check(s, K, M1, N, M2)` (60_exceptions R139). -/
def configCheck (sch : Option Scheme) (k m1 n m2 : Exponent) : ErrCode :=
  match sch with
  | none => .scheme
  | some sc => schemeCheck sc k m1 n m2

/-- An accepted CONFIGURE: a new predictor instance, everything at its reset value (45_system R121, 10_state R21). -/
def State.construct (s : State) (c : Cfg) : State :=
  { s with
    phase := .ready, err := .noError, cfg := c, mem := .empty, ghr := 0, npred := 0, nmisp := 0
    response := some .accepted }

/-- `CFG.*` where the spec leaves it unspecified: a free value (60_exceptions R141, 10_state R22; log 6). -/
def unspecifiedCfg (draw : Nat) : Cfg :=
  ⟨Config.unspecifiedScheme draw, Config.unspecifiedK draw, Config.unspecifiedM1 draw, Config.unspecifiedN draw,
    Config.unspecifiedM2 draw⟩

/-- TAKING THE EXCEPTION `ConfigError(code)` (60_exceptions R141): the code latched, `PHASE` ERROR, the totals 0, the tables
and `GHR` of the previous instance released, `CFG.*` unspecified, the code returned. There is no return from it (R144):
`State.construct` is the only way out. -/
def State.raiseConfigError (s : State) (code : ErrCode) : State :=
  { s with
    phase := .error, err := code, cfg := unspecifiedCfg s.draws, mem := .empty, ghr := 0, npred := 0, nmisp := 0
    response := some (.rejected code), draws := s.draws + 1 }

/-- The optional reset pin: `PHASE <- UNCONFIGURED`, `ERR <- 0`, the instance released, every other register
unspecified within its bounds (70_reset R155, 10_state R17, R22; log 16). -/
def State.electricalReset (s : State) : State :=
  { s with
    phase := .unconfigured, err := .noError, cfg := unspecifiedCfg s.draws, mem := .empty, ghr := 0
    npred := Config.unspecifiedNpred s.draws
    nmisp := min (Config.unspecifiedNmisp s.draws) (Config.unspecifiedNpred s.draws)
    response := none, draws := s.draws + 1 }

end Sys2Proof.Machine
end

