-- ==== Sys2Proof/Machine/Counter.lean ====
section
/-! DEFINITION. The micro-operations CTR.HOLD, CTR.DEC, CTR.INC at one counter cell (40_counter). -/

namespace Sys2Proof.Machine

/-- CTR.HOLD: `en = 0`, either value of `up` (40_counter R73). -/
def execCtrHold (cell : CellRef) (up : Bool) (s : State) : Host.Outcome State Fault Refusal :=
  driveCell (microOp false up) cell s

/-- CTR.DEC: `en = 1, up = 0` (40_counter R72). -/
def execCtrDec (cell : CellRef) (s : State) : Host.Outcome State Fault Refusal :=
  driveCell (microOp true false) cell s

/-- CTR.INC: `en = 1, up = 1` (40_counter R71). -/
def execCtrInc (cell : CellRef) (s : State) : Host.Outcome State Fault Refusal :=
  driveCell (microOp true true) cell s

end Sys2Proof.Machine
end

