-- ==== Sys2Proof/Machine/Predictor.lean ====
section
/-! DEFINITION. The EVENT command under each scheme: PU.BIMODAL, PU.GSHARE, PU.HYBRID (42_bimodal, 43_gshare, 44_hybrid).
Every right-hand side reads the state before the event (20_memory R38, 70_reset R159). -/

namespace Sys2Proof.Machine

/-- The state after a bimodal event (42_bimodal R90). -/
def bimodalEvent (taken : Bool) (a : Addr) (s : State) : State :=
  let i := bimIndex a s
  let c := s.tblRead .bim i
  let predTaken := isTaken c
  (s.tblWrite .bim i (upd c taken)).finishEvent predTaken taken

/-- The state after a gshare event (43_gshare R98, R100). -/
def gshareEvent (taken : Bool) (a : Addr) (s : State) : State :=
  let i := gshIndex a s
  let c := s.tblRead .gsh i
  let predTaken := isTaken c
  ((s.tblWrite .gsh i (upd c taken)).shiftHistory taken).finishEvent predTaken taken

/-- The prediction of a hybrid event: the selector of step 3 (44_hybrid R108, R110). -/
def hybridPrediction (a : Addr) (s : State) : Bool :=
  if selGshare (s.tblRead .cho (choIndex a s)) then isTaken (s.tblRead .gsh (gshIndex a s))
  else isTaken (s.tblRead .bim (bimIndex a s))

/-- Step 4 of a hybrid event: only the selected sub-predictor is trained (44_hybrid R108, R109). -/
def trainSelected (taken : Bool) (a : Addr) (s : State) : State :=
  if selGshare (s.tblRead .cho (choIndex a s)) then
    s.tblWrite .gsh (gshIndex a s) (upd (s.tblRead .gsh (gshIndex a s)) taken)
  else
    s.tblWrite .bim (bimIndex a s) (upd (s.tblRead .bim (bimIndex a s)) taken)

/-- The chooser cell's value after a hybrid event, from the sub-predictions of step 1 (44_hybrid R108 steps 6 and 7, R112). -/
def nextChooser (taken : Bool) (a : Addr) (s : State) : Counter :=
  let gshareCorrect := correctFlag (isTaken (s.tblRead .gsh (gshIndex a s))) taken
  let bimodalCorrect := correctFlag (isTaken (s.tblRead .bim (bimIndex a s))) taken
  choUpd (s.tblRead .cho (choIndex a s)) gshareCorrect bimodalCorrect

/-- The state after a hybrid event, steps 4, 5, 7 and 8 in order (44_hybrid R108). -/
def hybridEvent (taken : Bool) (a : Addr) (s : State) : State :=
  let trained := trainSelected taken a s
  let shifted := trained.shiftHistory taken
  let chosen := shifted.tblWrite .cho (choIndex a s) (nextChooser taken a s)
  chosen.finishEvent (hybridPrediction a s) taken

/-- PU.BIMODAL (42_bimodal R90). -/
def execPuBimodal (taken : Bool) (a : Addr) (s : State) : Host.Outcome State Fault Refusal :=
  performEvent .bimodal s (bimodalEvent taken a s)

/-- PU.GSHARE (43_gshare R98). -/
def execPuGshare (taken : Bool) (a : Addr) (s : State) : Host.Outcome State Fault Refusal :=
  performEvent .gshare s (gshareEvent taken a s)

/-- PU.HYBRID (44_hybrid R108). -/
def execPuHybrid (taken : Bool) (a : Addr) (s : State) : Host.Outcome State Fault Refusal :=
  performEvent .hybrid s (hybridEvent taken a s)

end Sys2Proof.Machine
end

