-- ==== Sys2Proof/Machine/System.lean ====
section
/-! DEFINITION. CONFIGURE and REPORT (45_system). -/

namespace Sys2Proof.Machine

/-- CONFIGURE: construct, or raise ConfigError with the code of the first failing check (45_system R121, 60_exceptions R142). -/
def execConfigure (sch : Option Scheme) (k m1 n m2 : Exponent) (s : State) : Host.Outcome State Fault Refusal :=
  match sch, configCheck sch k m1 n m2 with
  | some sc, .noError => .next (s.construct ⟨sc, k, m1, n, m2⟩)
  | _, code => .next (s.raiseConfigError code)

/-- `misprediction_rate(p, m)` (45_system R128, R129). -/
def mispredictionRate (predictions mispredictions : Nat) : Rate :=
  if predictions = 0 then .noData else .percent (mkRat (100 * mispredictions) predictions)

/-- The scheme and the parameters it consumes (00_scope R3, 45_system R126). -/
def schemeParams (c : Cfg) : SchemeParams :=
  match c.scheme with
  | .bimodal => .bimodal c.m2
  | .gshare => .gshare c.m1 c.n
  | .hybrid => .hybrid c.k c.m1 c.n c.m2

/-- The report order: chooser, gshare, bimodal, each where the scheme owns it (45_system R127). -/
def reportOrder (sch : Scheme) : List TableId :=
  match sch with
  | .bimodal => [.bim]
  | .gshare => [.gsh]
  | .hybrid => [.cho, .gsh, .bim]

/-- A table as (index, value) pairs by ascending index (45_system R127). -/
def tablePairs (s : State) (t : TableId) : List (Nat × Counter) :=
  (List.range (s.size t)).map (fun i => (i, s.tblRead t i))

/-- The record of REPORT in READY (45_system R126). -/
def runReport (s : State) : RunReport where
  params := schemeParams s.cfg
  predictions := s.npred
  mispredictions := s.nmisp
  rate := mispredictionRate s.npred s.nmisp
  tables := (reportOrder s.cfg.scheme).map (fun t => (t, tablePairs s t))

/-- REPORT in each phase (45_system R126, R130; 60_exceptions R143). -/
def execReport (s : State) : Host.Outcome State Fault Refusal :=
  match s.phase with
  | .unconfigured => .refused .reportUnconfigured
  | .ready => .next (s.respond (.report (runReport s)))
  | .error => .next (s.respond (.errorReport s.phase s.err))

end Sys2Proof.Machine
end

