-- ==== Sys2Proof/Machine/Dispatch.lean ====
section
/-! DEFINITION. One arm per instruction, one meaning per arm. -/

namespace Sys2Proof.Machine

def exec (i : Instr) (s : State) : Host.Outcome State Fault Refusal :=
  match i with
  | .configure sch k m1 n m2 => Sys2Proof.Machine.execConfigure sch k m1 n m2 s
  | .puBimodal taken a => Sys2Proof.Machine.execPuBimodal taken a s
  | .puGshare taken a => Sys2Proof.Machine.execPuGshare taken a s
  | .puHybrid taken a => Sys2Proof.Machine.execPuHybrid taken a s
  | .report => Sys2Proof.Machine.execReport s
  | .ctrHold cell up => Sys2Proof.Machine.execCtrHold cell up s
  | .ctrDec cell => Sys2Proof.Machine.execCtrDec cell s
  | .ctrInc cell => Sys2Proof.Machine.execCtrInc cell s

end Sys2Proof.Machine
end

