-- ==== Sys2Proof/Machine/Fetch.lean ====
section
/-! DEFINITION. Taking the next input the driver presents and choosing the operation it performs (30_encoding R64, 45_system R122). -/

namespace Sys2Proof.Machine

/-- The next input, and the state with it taken from the list (log 3). -/
def fetch (s : State) : Option (Input × State) :=
  match s.input with
  | [] => none
  | x :: rest => some (x, s.setInput rest)

/-- A decoded command: an EVENT reads `PHASE` first and `CFG.SCHEME` only in READY (45_system R122). -/
def performCommand (c : Command) (s : State) : Host.Outcome State Fault Refusal :=
  match c with
  | .configure sch k m1 n m2 => exec (.configure sch k m1 n m2) s
  | .event taken a =>
    if s.phase = .ready then exec (eventInstr s.cfg.scheme taken a) s else .refused .eventOutsideReady
  | .report => exec .report s

/-- One presented input; a reserved word is refused (60_exceptions R143). -/
def performInput (x : Input) (s : State) : Host.Outcome State Fault Refusal :=
  match x with
  | .command w =>
    match decodeCommand w with
    | .ok c => performCommand c s
    | .error cls => .refused (.reservedWord cls)
  | .control cell w => exec (decodeControl cell w) s
  | .resetPin => .next s.electricalReset

end Sys2Proof.Machine
end

