-- ==== Sys2Proof/Machine/Step.lean ====
section
/-! DEFINITION. One step of the engine: the next presented input, whole (00_scope R6, 20_memory R33). -/

namespace Sys2Proof.Machine

/-- The next input is performed; with none presented the engine waits unchanged (log 3). -/
def step (s : State) : Host.Outcome State Fault Refusal :=
  match fetch s with
  | none => .next s
  | some (x, s') => performInput x s'

/-- `s` with a table word presented next (log 3, log 18). -/
def State.withFetchWord (s : State) (nbits w : Nat) : State := s.setInput (tableInput nbits w :: s.input)

end Sys2Proof.Machine
end

