-- ==== Sys2Proof/Safety.lean ====
section
/-! DEFINITION. What a good state is, and the vocabulary of claims about steps and runs. -/

namespace Sys2Proof

/-- The EVENT command. -/
def Instr.isEvent : Instr → Bool
  | .puBimodal _ _ => true
  | .puGshare _ _ => true
  | .puHybrid _ _ => true
  | .configure _ _ _ _ _ => false
  | .report => false
  | .ctrHold _ _ => false
  | .ctrDec _ => false
  | .ctrInc _ => false

/-- The CONFIGURE command. -/
def Instr.isConfigure : Instr → Bool
  | .configure _ _ _ _ _ => true
  | .puBimodal _ _ => false
  | .puGshare _ _ => false
  | .puHybrid _ _ => false
  | .report => false
  | .ctrHold _ _ => false
  | .ctrDec _ => false
  | .ctrInc _ => false

end Sys2Proof

namespace Sys2Proof.Machine

/-- The configuration registers hold a configuration that `config_check` passes (60_exceptions R139). -/
def Cfg.valid (c : Cfg) : Bool := decide (schemeCheck c.scheme c.k c.m1 c.n c.m2 = .noError)

/-- The invariant of the engine. -/
structure State.Inv (s : State) : Prop where
  /-- The tables are in canonical form (log 8). -/
  memWf : s.mem.wf = true
  /-- Only cells that exist are listed; a table that does not exist lists nothing (10_state R19, 20_memory R35). -/
  cellsExist : ∀ t, cellsBelow (s.size t) (s.mem.cells t) = true
  /-- `0 <= GHR < 2^N`, and 0 where there is no history register (43_gshare R96, 10_state R19). -/
  ghrBound : s.ghr < 2 ^ s.ghrWidth
  /-- `NMISP <= NPRED` (10_state R17). -/
  totalsBound : s.nmisp ≤ s.npred
  /-- `ERR` is 0 exactly when `PHASE` is not ERROR (10_state R18). -/
  errPhase : s.err = .noError ↔ s.phase ≠ .error
  /-- In READY the configuration is valid (60_exceptions R142). -/
  cfgValid : s.phase = .ready → s.cfg.valid = true
  /-- In ERROR the totals are 0 (60_exceptions R141). -/
  errorTotals : s.phase = .error → s.npred = 0 ∧ s.nmisp = 0

/-- One trace event as the driver presents it: its outcome and address in an EV word (00_scope R7). -/
def eventInput (e : Bool × Addr) : Input := .command (encodeEvent e.1 e.2)

/-- The state after an event, by the stored scheme (45_system R122). -/
def eventStep (s : State) (e : Bool × Addr) : State :=
  match s.cfg.scheme with
  | .bimodal => bimodalEvent e.1 e.2 s
  | .gshare => gshareEvent e.1 e.2 s
  | .hybrid => hybridEvent e.1 e.2 s

/-- The prediction an event makes, by the stored scheme. -/
def eventPrediction (s : State) (a : Addr) : Bool :=
  match s.cfg.scheme with
  | .bimodal => isTaken (s.tblRead .bim (bimIndex a s))
  | .gshare => isTaken (s.tblRead .gsh (gshIndex a s))
  | .hybrid => hybridPrediction a s

/-- How many events of a trace are mispredicted, each from the state the ones before it leave. -/
def mispredicted (s : State) : List (Bool × Addr) → Nat
  | [] => 0
  | e :: rest => (if eventPrediction s e.2 = e.1 then 0 else 1) + mispredicted (eventStep s e) rest

/-- `k` steps of the machine. -/
def runSteps (k : Nat) (s : State) : Host.Outcome State Fault Refusal := Host.Core.run Sys2Proof.core k s

/-- Two cell values differ by at most one. -/
def withinOne (c d : Counter) : Prop := c.toNat ≤ d.toNat + 1 ∧ d.toNat ≤ c.toNat + 1

end Sys2Proof.Machine
end

