-- ==== Sys2Proof/Certificates/Slice0/Obligations.lean ====
section
/-! DEFINITION. The statements for the provers, each with the rule of spec/ it formalises. -/

open Sys2Proof Sys2Proof.Machine

/-! ### The counter cell and its micro-operations -/

/-- 40_counter R71: CTR.INC, control `11`, completes at every cell that exists, sets it to `min(c + 1, 3)`, and changes nothing else. -/
def Obligations.CtrIncSaturatesAtThree : Prop :=
  ∀ (cell : CellRef) (s : State), s.hasCell cell = true →
    encode (.ctrInc cell) = .control cell 0b11#2 ∧
    ∃ t, exec (.ctrInc cell) s = .next t ∧ t = { s with mem := t.mem } ∧
      (t.tblRead cell.table cell.index).toNat = min ((s.tblRead cell.table cell.index).toNat + 1) 3 ∧
      ∀ u j, (u ≠ cell.table ∨ j ≠ cell.index) → t.tblRead u j = s.tblRead u j

/-- 40_counter R72: CTR.DEC, control `10`, completes at every cell that exists, sets it to `max(c - 1, 0)`, and changes nothing else. -/
def Obligations.CtrDecSaturatesAtZero : Prop :=
  ∀ (cell : CellRef) (s : State), s.hasCell cell = true →
    encode (.ctrDec cell) = .control cell 0b10#2 ∧
    ∃ t, exec (.ctrDec cell) s = .next t ∧ t = { s with mem := t.mem } ∧
      ((t.tblRead cell.table cell.index).toNat : Int) = max (((s.tblRead cell.table cell.index).toNat : Int) - 1) 0 ∧
      ∀ u j, (u ≠ cell.table ∨ j ≠ cell.index) → t.tblRead u j = s.tblRead u j

/-- 40_counter R73: CTR.HOLD, `en = 0`, completes at every cell that exists, for either value of `up`, and every cell and
every other piece of state is unchanged; a memory in canonical form is the same data. -/
def Obligations.CtrHoldChangesNothing : Prop :=
  ∀ (cell : CellRef) (up : Bool) (s : State), s.hasCell cell = true →
    (∃ w : CtlWord, encode (.ctrHold cell up) = .control cell w ∧ w.getLsbD 1 = false ∧ w.getLsbD 0 = up) ∧
    ∃ t, exec (.ctrHold cell up) s = .next t ∧ t = { s with mem := t.mem } ∧
      (∀ u j, t.tblRead u j = s.tblRead u j) ∧ (s.mem.wf = true → t = s)

/-- A cell that does not exist cannot be driven. This is the model's choice where 20_memory R34 leaves the access
undefined (log 12). -/
def Obligations.DrivingAMissingCellFaults : Prop :=
  ∀ (cell : CellRef) (up : Bool) (s : State), s.hasCell cell = false →
    exec (.ctrInc cell) s = .fault .noSuchCell ∧ exec (.ctrDec cell) s = .fault .noSuchCell ∧
      exec (.ctrHold cell up) s = .fault .noSuchCell

/-- 40_counter section 2, "Each micro-operation moves the value by at most 1": no operation but CONFIGURE moves any cell by
more than one, in either direction. -/
def Obligations.CellsMoveByAtMostOne : Prop :=
  ∀ (i : Instr) (s t : State), i.isConfigure = false → exec i s = .next t →
    ∀ u j, withinOne (t.tblRead u j) (s.tblRead u j)

/-- 40_counter section 2, the 2-bit logic of `inc` and `dec` (an inference the spec marks as derived from its table). -/
def Obligations.CounterLogicEquations : Prop :=
  ∀ c : Counter,
    (inc c).getLsbD 1 = (c.getLsbD 1 || c.getLsbD 0) ∧ (inc c).getLsbD 0 = (c.getLsbD 1 || !c.getLsbD 0) ∧
    (dec c).getLsbD 1 = (c.getLsbD 1 && c.getLsbD 0) ∧ (dec c).getLsbD 0 = (c.getLsbD 1 && !c.getLsbD 0)

/-- 44_hybrid section 2: the ternary drive of a chooser cell, and its next value (which the spec marks as derived, R107). -/
def Obligations.ChooserDriveIsTernary : Prop :=
  ∀ (c : Counter) (gc bc : Bool),
    choDrive gc bc = (if gc && !bc then .inc else if bc && !gc then .dec else .hold) ∧
    (choUpd c gc bc).toNat =
      if gc && !bc then min (c.toNat + 1) 3 else if bc && !gc then c.toNat - 1 else c.toNat

/-! ### Indices and history -/

/-- 41_index R80, R81: the direct indices are the address fields `a[W+1:2]`. -/
def Obligations.DirectIndexIsAddressField : Prop :=
  ∀ (w : Exponent) (a : Addr) (j : Nat),
    idxBimodal w.toNat a.toNat = (a.toNat >>> 2) &&& (2 ^ w.toNat - 1) ∧
    idxChooser w.toNat a.toNat = (a.toNat >>> 2) &&& (2 ^ w.toNat - 1) ∧
    (idxBimodal w.toNat a.toNat).testBit j = (decide (j < w.toNat) && a.getLsbD (j + 2)) ∧
    (idxChooser w.toNat a.toNat).testBit j = (decide (j < w.toNat) && a.getLsbD (j + 2))

/-- 41_index section 2, the bit-field statement (an inference the spec marks as derived, R83): the gshare index bit by bit,
for every history value. -/
def Obligations.GshareIndexBits : Prop :=
  ∀ m1 n a h j : Nat, n ≤ m1 → j < m1 →
    (idxGshare m1 n a h).testBit j =
      if j < m1 - n then a.testBit (j + 2) else a.testBit (j + 2) ^^ h.testBit (j - (m1 - n))

/-- 41_index R82: the gshare index term for term as the source gives it, and its one-line form. -/
def Obligations.GshareIndexFoldsTheWindow : Prop :=
  ∀ m1 n a h : Nat, n ≤ m1 →
    idxGshare m1 n a h =
      ((((a >>> (m1 - n + 2)) &&& (2 ^ n - 1)) ^^^ (h &&& (2 ^ n - 1))) <<< (m1 - n)) |||
        ((a >>> 2) &&& (2 ^ (m1 - n) - 1)) ∧
    (h < 2 ^ n → idxGshare m1 n a h = ((a >>> 2) % 2 ^ m1) ^^^ (h <<< (m1 - n)))

/-- 41_index section 2, the corner cases (an inference the spec marks as derived, R84), at every address of `AW` bits. -/
def Obligations.GshareIndexCornerCases : Prop :=
  ∀ (m1 a h : Nat), a < 2 ^ Config.AW →
    idxGshare m1 0 a h = (a >>> 2) &&& mask m1 ∧
    (h < 2 ^ m1 → idxGshare m1 m1 a h = ((a >>> 2) &&& mask m1) ^^^ h) ∧
    idxGshare 0 0 a h = 0 ∧
    (∀ n, n ≤ m1 → idxGshare m1 n a 0 = (a >>> 2) &&& mask m1) ∧
    (m1 + 2 = Config.AW → a >>> (m1 - 0 + 2) = 0)

/-- 41_index R85: every index is inside its table, for every history value. -/
def Obligations.IndicesStayInsideTheirTables : Prop :=
  ∀ m1 m2 k n a h : Nat, n ≤ m1 →
    idxBimodal m2 a < 2 ^ m2 ∧ idxChooser k a < 2 ^ k ∧ idxGshare m1 n a h < 2 ^ m1

/-- 20_memory R32: two addresses that differ in bits 1 and 0 alone are the same event, whatever the scheme. -/
def Obligations.LowAddressBitsAreIgnored : Prop :=
  ∀ (taken : Bool) (a b : Addr) (s : State), a >>> 2 = b >>> 2 →
    exec (.puBimodal taken a) s = exec (.puBimodal taken b) s ∧
    exec (.puGshare taken a) s = exec (.puGshare taken b) s ∧
    exec (.puHybrid taken a) s = exec (.puHybrid taken b) s

/-- 43_gshare R95: `hist_shift` puts the outcome at bit `N-1`, moves every other bit down one, and is 0 at `N = 0`. -/
def Obligations.HistoryShiftBits : Prop :=
  (∀ n h : Nat, ∀ o : Bool, 1 ≤ n → h < 2 ^ n →
    (histShift n h o).testBit (n - 1) = o ∧
    (∀ j, j < n - 1 → (histShift n h o).testBit j = h.testBit (j + 1)) ∧
    histShift n h o < 2 ^ n) ∧
  ∀ (h : Nat) (o : Bool), histShift 0 h o = 0

/-! ### Events -/

/-- 42_bimodal R90 (and the frame the spec derives from it): PU.BIMODAL completes in READY under scheme bimodal; its prediction, its training, its statistics
and result, and its frame; outside READY it is refused. -/
def Obligations.BimodalEventTrainsOneCell : Prop :=
  ∀ (taken : Bool) (a : Addr) (s : State),
    encode (.puBimodal taken a) = .command (encodeEvent taken a) ∧
    (s.phase ≠ .ready → exec (.puBimodal taken a) s = .refused .eventOutsideReady) ∧
    (s.phase = .ready → s.cfg.scheme = .bimodal →
    let i := idxBimodal s.cfg.m2.toNat a.toNat
    let c := (s.tblRead .bim i).toNat
    let pred := decide (2 ≤ c)
    ∃ t, exec (.puBimodal taken a) s = .next t ∧
      t = { s with
        mem := t.mem, npred := s.npred + 1, nmisp := s.nmisp + (if pred = taken then 0 else 1)
        response := some (.event (pred == taken) pred) } ∧
      i < s.size .bim ∧
      (t.tblRead .bim i).toNat = (if taken then min (c + 1) 3 else c - 1) ∧
      withinOne (t.tblRead .bim i) (s.tblRead .bim i) ∧
      (∀ u j, (u ≠ .bim ∨ j ≠ i) → t.tblRead u j = s.tblRead u j) ∧
      s.size .gsh = 0 ∧ s.size .cho = 0 ∧ s.ghrWidth = 0)

/-- 42_bimodal R92: with `M2 = 0` every event, at every address, reads and updates the one cell. -/
def Obligations.OneCellBimodalTableIsGlobal : Prop :=
  ∀ (taken : Bool) (a : Addr) (s : State), s.phase = .ready → s.cfg.scheme = .bimodal → s.cfg.m2 = 0 →
    s.size .bim = 1 ∧
    ∃ t, exec (.puBimodal taken a) s = .next t ∧
      (t.tblRead .bim 0).toNat =
        (if taken then min ((s.tblRead .bim 0).toNat + 1) 3 else (s.tblRead .bim 0).toNat - 1) ∧
      ∃ correct, t.response = some (.event correct (decide (2 ≤ (s.tblRead .bim 0).toNat)))

/-- 43_gshare R98, R100 (and the frame the spec derives from them): PU.GSHARE completes in READY under scheme gshare; the cell read and written is the one
indexed by the history before the event, the history then takes the outcome, and nothing else moves; outside READY it is refused. -/
def Obligations.GshareEventTrainsAndShifts : Prop :=
  ∀ (taken : Bool) (a : Addr) (s : State),
    encode (.puGshare taken a) = .command (encodeEvent taken a) ∧
    (s.phase ≠ .ready → exec (.puGshare taken a) s = .refused .eventOutsideReady) ∧
    (s.phase = .ready → s.cfg.scheme = .gshare →
    let i := idxGshare s.cfg.m1.toNat s.cfg.n.toNat a.toNat s.ghr
    let c := (s.tblRead .gsh i).toNat
    let pred := decide (2 ≤ c)
    ∃ t, exec (.puGshare taken a) s = .next t ∧
      t = { s with
        mem := t.mem, ghr := histShift s.cfg.n.toNat s.ghr taken
        npred := s.npred + 1, nmisp := s.nmisp + (if pred = taken then 0 else 1)
        response := some (.event (pred == taken) pred) } ∧
      (t.tblRead .gsh i).toNat = (if taken then min (c + 1) 3 else c - 1) ∧
      withinOne (t.tblRead .gsh i) (s.tblRead .gsh i) ∧
      (∀ u j, (u ≠ .gsh ∨ j ≠ i) → t.tblRead u j = s.tblRead u j) ∧
      (s.cfg.n.toNat ≤ s.cfg.m1.toNat → i < s.size .gsh) ∧ s.size .bim = 0 ∧ s.size .cho = 0)

/-- 44_hybrid R108, R110, R112: PU.HYBRID completes in READY under scheme hybrid. Every value is read before the event:
the selection is by the chooser cell read, both sub-predictions are judged, and the chooser moves toward the one that
alone was right. Outside READY it is refused. -/
def Obligations.HybridEventSelectsTrainsAndJudges : Prop :=
  ∀ (taken : Bool) (a : Addr) (s : State),
    encode (.puHybrid taken a) = .command (encodeEvent taken a) ∧
    (s.phase ≠ .ready → exec (.puHybrid taken a) s = .refused .eventOutsideReady) ∧
    (s.phase = .ready → s.cfg.scheme = .hybrid →
    let ig := idxGshare s.cfg.m1.toNat s.cfg.n.toNat a.toNat s.ghr
    let ib := idxBimodal s.cfg.m2.toNat a.toNat
    let ic := idxChooser s.cfg.k.toNat a.toNat
    let cg := (s.tblRead .gsh ig).toNat
    let cb := (s.tblRead .bim ib).toNat
    let cc := (s.tblRead .cho ic).toNat
    let gshareTaken := decide (2 ≤ cg)
    let bimodalTaken := decide (2 ≤ cb)
    let pred := if 2 ≤ cc then gshareTaken else bimodalTaken
    ∃ t, exec (.puHybrid taken a) s = .next t ∧
      t = { s with
        mem := t.mem, ghr := histShift s.cfg.n.toNat s.ghr taken
        npred := s.npred + 1, nmisp := s.nmisp + (if pred = taken then 0 else 1)
        response := some (.event (pred == taken) pred) } ∧
      (2 ≤ cc → (t.tblRead .gsh ig).toNat = (if taken then min (cg + 1) 3 else cg - 1)) ∧
      (¬ 2 ≤ cc → (t.tblRead .bim ib).toNat = (if taken then min (cb + 1) 3 else cb - 1)) ∧
      (t.tblRead .cho ic).toNat =
        (if gshareTaken = taken ∧ bimodalTaken ≠ taken then min (cc + 1) 3
         else if bimodalTaken = taken ∧ gshareTaken ≠ taken then cc - 1
         else cc))

/-- 44_hybrid R109: the sub-table the chooser did not select keeps every cell, so do the cells of the other tables that
the event does not address, and `CFG.*`, `PHASE`, `ERR`; each written cell moves by at most one. -/
def Obligations.HybridEventLeavesTheOtherTableAlone : Prop :=
  ∀ (taken : Bool) (a : Addr) (s t : State), exec (.puHybrid taken a) s = .next t →
    (2 ≤ (s.tblRead .cho (choIndex a s)).toNat →
      (∀ j, t.tblRead .bim j = s.tblRead .bim j) ∧
      ∀ j, j ≠ gshIndex a s → t.tblRead .gsh j = s.tblRead .gsh j) ∧
    (¬ 2 ≤ (s.tblRead .cho (choIndex a s)).toNat →
      (∀ j, t.tblRead .gsh j = s.tblRead .gsh j) ∧
      ∀ j, j ≠ bimIndex a s → t.tblRead .bim j = s.tblRead .bim j) ∧
    (∀ j, j ≠ choIndex a s → t.tblRead .cho j = s.tblRead .cho j) ∧
    t.cfg = s.cfg ∧ t.phase = s.phase ∧ t.err = s.err ∧
    ∀ u j, withinOne (t.tblRead u j) (s.tblRead u j)

/-- 44_hybrid section 2, corner case (an inference the spec marks as derived): the chooser moves only on an event where the two sub-predictions disagree, and then it
moves (or saturates) toward the one that was right. -/
def Obligations.ChooserMovesOnlyOnDisagreement : Prop :=
  ∀ (taken : Bool) (a : Addr) (s t : State), exec (.puHybrid taken a) s = .next t →
    let g := isTaken (s.tblRead .gsh (gshIndex a s))
    let b := isTaken (s.tblRead .bim (bimIndex a s))
    (g = b → ∀ j, t.tblRead .cho j = s.tblRead .cho j) ∧
    (g ≠ b → t.tblRead .cho (choIndex a s) =
      if g = taken then inc (s.tblRead .cho (choIndex a s)) else dec (s.tblRead .cho (choIndex a s)))

/-- 60_exceptions R140: neither an event nor REPORT ever raises an exception: no fault, and `PHASE` and `ERR` stay. -/
def Obligations.EventsAndReportsRaiseNothing : Prop :=
  ∀ (i : Instr) (s : State), i.isEvent = true ∨ i = .report →
    (∀ f, exec i s ≠ .fault f) ∧ ∀ t, exec i s = .next t → t.phase = s.phase ∧ t.err = s.err

/-- A PU operation in READY under a scheme that does not select it is refused. This is the model's choice: by 30_encoding R56
and 45_system R122 no command performs it (log 11). -/
def Obligations.UnselectedOperationIsRefused : Prop :=
  ∀ (i : Instr) (m : Scheme) (s : State), i.mode? = some m → s.phase = .ready → s.cfg.scheme ≠ m →
    exec i s = .refused .operationNotSelected

/-! ### Construction, the exception, and read-out -/

/-- 45_system section 1 (R121): CONFIGURE completes in every phase. A valid one leaves every piece of state at its reset
value: the owned tables of the size asked for at 2, 2 and 1, the others absent, the history 0. An invalid one raises
ConfigError. Three clauses say more than the spec and are the model's choices. What a cell past its table's size, or of a
table the scheme does not own, reads as, and `ghr = 0` where no `GHR` exists, are log 7's (the spec gives such cells and such
a register no content); that `CFG.*` holds the fields the scheme does not consume is log 19's (10_state R16 allows either). -/
def Obligations.ConfigureConstructsOrRaises : Prop :=
  ∀ (sch : Option Scheme) (k m1 n m2 : Exponent) (s : State),
    encode (.configure sch k m1 n m2) = .command (encodeConfigure sch k m1 n m2) ∧
    (∀ sc, sch = some sc → configCheck sch k m1 n m2 = .noError →
      ∃ t, exec (.configure sch k m1 n m2) s = .next t ∧
        t.phase = .ready ∧ t.err = .noError ∧ t.cfg = ⟨sc, k, m1, n, m2⟩ ∧ t.npred = 0 ∧ t.nmisp = 0 ∧ t.ghr = 0 ∧
        t.response = some .accepted ∧ t.input = s.input ∧ t.draws = s.draws ∧
        t.size .bim = (if sc = .gshare then 0 else 2 ^ m2.toNat) ∧
        t.size .gsh = (if sc = .bimodal then 0 else 2 ^ m1.toNat) ∧
        t.size .cho = (if sc = .hybrid then 2 ^ k.toNat else 0) ∧
        t.ghrWidth = (if sc = .bimodal then 0 else n.toNat) ∧
        ∀ i, t.tblRead .bim i = 2#2 ∧ t.tblRead .gsh i = 2#2 ∧ t.tblRead .cho i = 1#2) ∧
    (configCheck sch k m1 n m2 ≠ .noError →
      exec (.configure sch k m1 n m2) s = .next (s.raiseConfigError (configCheck sch k m1 n m2)))

/-- 60_exceptions R141: a CONFIGURE that fails the check takes ConfigError in every phase: the code latched and returned,
`PHASE` ERROR, the totals 0, no table and no history register left. Nothing is claimed of `CFG.*`. -/
def Obligations.InvalidConfigureRaisesConfigError : Prop :=
  ∀ (sch : Option Scheme) (k m1 n m2 : Exponent) (s : State), configCheck sch k m1 n m2 ≠ .noError →
    ∃ t, exec (.configure sch k m1 n m2) s = .next t ∧
      t.phase = .error ∧ t.err = configCheck sch k m1 n m2 ∧
      t.response = some (.rejected (configCheck sch k m1 n m2)) ∧ t.npred = 0 ∧ t.nmisp = 0 ∧
      (∀ u, t.size u = 0) ∧ t.ghrWidth = 0 ∧ t.input = s.input

/-- 60_exceptions R139 (the order is the spec's decision D11, the bound its decision D2): which code CONFIGURE's check gives,
for every operand. -/
def Obligations.ConfigCheckOrder : Prop :=
  ∀ k m1 n m2 : Exponent,
    configCheck none k m1 n m2 = .scheme ∧
    configCheck (some .bimodal) k m1 n m2 = (if 32 < m2.toNat + 2 then .indexWidth else .noError) ∧
    configCheck (some .gshare) k m1 n m2 =
      (if m1.toNat < n.toNat then .histWidth else if 32 < m1.toNat + 2 then .indexWidth else .noError) ∧
    configCheck (some .hybrid) k m1 n m2 =
      (if m1.toNat < n.toNat then .histWidth
       else if 32 < m2.toNat + 2 ∨ 32 < m1.toNat + 2 ∨ 32 < k.toNat + 2 then .indexWidth else .noError)

/-- 45_system R123: a CONFIGURE discards all previous state: from any two states its outcomes agree on everything but the
driver's remaining inputs, the free-value counter and (after a rejection) the unspecified `CFG.*`. -/
def Obligations.ConfigureForgetsTheRun : Prop :=
  ∀ (sch : Option Scheme) (k m1 n m2 : Exponent) (s₁ s₂ : State),
    ∃ t₁ t₂, exec (.configure sch k m1 n m2) s₁ = .next t₁ ∧ exec (.configure sch k m1 n m2) s₂ = .next t₂ ∧
      t₂ = { t₁ with input := s₂.input, draws := t₂.draws, cfg := t₂.cfg } ∧
      (configCheck sch k m1 n m2 = .noError → t₂.cfg = t₁.cfg)

/-- 60_exceptions R144: the only way out of ERROR is a valid CONFIGURE, which constructs afresh; an invalid one overwrites
`ERR` with its own code and stays in ERROR; nothing else changes either. -/
def Obligations.OnlyValidConfigureLeavesError : Prop :=
  ∀ (i : Instr) (s t : State), s.phase = .error → exec i s = .next t →
    (∃ sc k m1 n m2, i = .configure (some sc) k m1 n m2 ∧ configCheck (some sc) k m1 n m2 = .noError ∧
      t = s.construct ⟨sc, k, m1, n, m2⟩) ∨
    (∃ sch k m1 n m2, i = .configure sch k m1 n m2 ∧ configCheck sch k m1 n m2 ≠ .noError ∧
      t.phase = .error ∧ t.err = configCheck sch k m1 n m2) ∨
    (i.isConfigure = false ∧ t.phase = .error ∧ t.err = s.err)

/-- 10_state section 5 (R16), 20_memory section 9 (R41): no operation but CONFIGURE writes `CFG.*`; nor does any other write `PHASE` or `ERR`. -/
def Obligations.OnlyConfigureWritesTheConfiguration : Prop :=
  ∀ (i : Instr) (s t : State), i.isConfigure = false → exec i s = .next t →
    t.cfg = s.cfg ∧ t.phase = s.phase ∧ t.err = s.err ∧ (∀ u, t.size u = s.size u) ∧ t.ghrWidth = s.ghrWidth

/-- 45_system section 2 (R124): an EVENT that is performed raises `NPRED` by one, and `NMISP` by one exactly when its `correct`
result is false. The other clauses are the table of 10_state section 7 (R20), which the spec marks as derived: CONFIGURE sets
both totals to 0, no instruction that is neither writes them or `GHR`, and PU.BIMODAL does not write `GHR`. That `ghr` is 0
after a CONFIGURE that leaves no `GHR` (rejected, or bimodal) is the model's choice (log 7). The statement is about
instructions; the optional reset pin, which is none, writes these registers too (log 16). -/
def Obligations.WritersOfTotalsAndHistory : Prop :=
  ∀ (i : Instr) (s t : State), exec i s = .next t →
    (i.isEvent = true → t.npred = s.npred + 1 ∧
      ∃ correct predTaken, t.response = some (.event correct predTaken) ∧
        t.nmisp = s.nmisp + (if correct then 0 else 1)) ∧
    (i.isConfigure = true → t.npred = 0 ∧ t.nmisp = 0 ∧ t.ghr = 0) ∧
    (i.isEvent = false → i.isConfigure = false → t.npred = s.npred ∧ t.nmisp = s.nmisp ∧ t.ghr = s.ghr) ∧
    (∀ taken a, i = .puBimodal taken a → t.ghr = s.ghr)

/-- 10_state section 8 (R22, the spec's decision D26): in UNCONFIGURED the engine accepts CONFIGURE and nothing else; it powers on there with `ERR` 0 and no
table and no history register. -/
def Obligations.UnconfiguredAcceptsConfigureOnly : Prop :=
  (State.reset.phase = .unconfigured ∧ State.reset.err = .noError ∧
    (∀ u, State.reset.size u = 0) ∧ State.reset.ghrWidth = 0) ∧
  ∀ (i : Instr) (s t : State), s.phase = .unconfigured → exec i s = .next t → i.isConfigure = true

/-- 45_system R126, R127: REPORT completes in READY, returns the record of the state, and writes nothing. The tables
come in the order chooser, gshare, bimodal, each as its (index, value) pairs by ascending index. -/
def Obligations.ReportReadsOutTheState : Prop :=
  encode .report = .command encodeReport ∧ ∀ s : State, s.phase = .ready →
    ∃ (t : State) (r : RunReport), exec .report s = .next t ∧ t = { s with response := some (.report r) } ∧
      r.params = (match s.cfg.scheme with
        | .bimodal => .bimodal s.cfg.m2
        | .gshare => .gshare s.cfg.m1 s.cfg.n
        | .hybrid => .hybrid s.cfg.k s.cfg.m1 s.cfg.n s.cfg.m2) ∧ r.predictions = s.npred ∧ r.mispredictions = s.nmisp ∧
      r.rate = mispredictionRate s.npred s.nmisp ∧
      r.tables.map Prod.fst =
        (match s.cfg.scheme with | .bimodal => [.bim] | .gshare => [.gsh] | .hybrid => [.cho, .gsh, .bim]) ∧
      ∀ u l, (u, l) ∈ r.tables → l.length = s.size u ∧ ∀ i, i < s.size u → l[i]? = some (i, s.tblRead u i)

/-- 45_system R130: REPORT in ERROR completes with `PHASE` and `ERR` only, and is refused in UNCONFIGURED. -/
def Obligations.ReportOutsideReady : Prop :=
  ∀ s : State,
    (s.phase = .error → exec .report s = .next { s with response := some (.errorReport .error s.err) }) ∧
    (s.phase = .unconfigured → exec .report s = .refused .reportUnconfigured)

/-- 45_system section 3 (R131): REPORT is a pure function of the state: repeated at once it returns the same record and state. -/
def Obligations.ReportIsRepeatable : Prop :=
  ∀ s t : State, exec .report s = .next t → exec .report t = .next t

/-- 45_system R128: the rate is `NoData` exactly at zero predictions, and otherwise the exact rational
`(m / p) * 100`, between 0 and 100 when `m <= p`. -/
def Obligations.RateIsExactOrNoData : Prop :=
  ∀ p m : Nat,
    (mispredictionRate p m = .noData ↔ p = 0) ∧
    (0 < p → mispredictionRate p m = .percent ((m : Rat) / (p : Rat) * 100)) ∧
    (∀ r, m ≤ p → mispredictionRate p m = .percent r → 0 ≤ r ∧ r ≤ 100)

/-! ### Words -/

/-- 30_encoding sections 2 and 3 (R51 to R57): decode and encode agree on every instruction, with every operand, under its own mode. -/
def Obligations.DecodeOfEncode : Prop :=
  ∀ (i : Instr) (mode : Scheme), i.wf = true → i.mode? = none ∨ i.mode? = some mode →
    decodeInput mode (encode i) = some i

/-- 30_encoding section 5 (R59, R64): every word that decodes is the one word of its instruction. -/
def Obligations.EncodeOfDecode : Prop :=
  ∀ (i : Instr) (mode : Scheme) (x : Input), decodeInput mode x = some i → encode i = x

/-- 30_encoding section 5 (R59 items 1 to 3): exactly which command words are reserved, by the bits of the word. -/
def Obligations.ReservedWords : Prop :=
  ∀ w : CmdWord,
    (decodeCommand w = .error .cmdThree ↔ w.toNat / 2 ^ 33 = 3) ∧
    (decodeCommand w = .error .configureZ ↔ w.toNat / 2 ^ 33 = 0 ∧ w.toNat / 2 ^ 26 % 2 ^ 7 ≠ 0) ∧
    (decodeCommand w = .error .reportPayload ↔ w.toNat / 2 ^ 33 = 2 ∧ w.toNat % 2 ^ 33 ≠ 0)

/-- 30_encoding section 2 (R52, R54, R55): the fields of the three command formats, by the bits of the word. -/
def Obligations.CommandFields : Prop :=
  ∀ w : CmdWord,
    (w.toNat / 2 ^ 33 = 1 → ∃ taken a, decodeCommand w = .ok (.event taken a) ∧
      (taken = true ↔ w.toNat / 2 ^ 32 % 2 = 1) ∧ a.toNat = w.toNat % 2 ^ 32) ∧
    (w.toNat / 2 ^ 26 = 0 → ∃ sch k m1 n m2, decodeCommand w = .ok (.configure sch k m1 n m2) ∧
      (codeOfScheme sch).toNat = w.toNat / 2 ^ 24 % 4 ∧ k.toNat = w.toNat / 2 ^ 18 % 64 ∧
      m1.toNat = w.toNat / 2 ^ 12 % 64 ∧ n.toNat = w.toNat / 2 ^ 6 % 64 ∧ m2.toNat = w.toNat % 64) ∧
    (decodeCommand w = .ok .report ↔ w.toNat = 2 ^ 34)

/-- 95_test_vectors 2.8 and 2.1: words written out from the spec decode to the instructions they stand for. -/
def Obligations.SpecWordsDecode : Prop :=
  decodeInput .bimodal (.command 0x000000002#35) = some (.configure (some .bimodal) 0 0 0 2) ∧
  decodeInput .bimodal (.command 0x001002080#35) = some (.configure (some .gshare) 0 2 2 0) ∧
  decodeInput .bimodal (.command 0x002042041#35) = some (.configure (some .hybrid) 1 2 1 1) ∧
  decodeInput .bimodal (.command 0x300000004#35) = some (.puBimodal true 4) ∧
  decodeInput .gshare (.command 0x2DEADBEEF#35) = some (.puGshare false 0xDEADBEEF#32) ∧
  decodeInput .hybrid (.command 0x3FFFFFFFF#35) = some (.puHybrid true 0xFFFFFFFF#32) ∧
  decodeInput .hybrid (.command 0x400000000#35) = some .report ∧
  decodeInput .bimodal (.control ⟨.cho, 3⟩ 1#2) = some (.ctrHold ⟨.cho, 3⟩ true) ∧
  decodeInput .bimodal (.control ⟨.cho, 3⟩ 2#2) = some (.ctrDec ⟨.cho, 3⟩) ∧
  decodeInput .bimodal (.control ⟨.cho, 3⟩ 3#2) = some (.ctrInc ⟨.cho, 3⟩)

/-- 30_encoding section 7 (R60, R62): every assembly line is one command word that decodes to its command, fields the line does not
give being zero and every token but `t` being not-taken. -/
def Obligations.AssemblyLinesDecode : Prop :=
  (∀ m2, decodeCommand (assemble (.configureBimodal m2)) = .ok (.configure (some .bimodal) 0 0 0 m2)) ∧
  (∀ m1 n, decodeCommand (assemble (.configureGshare m1 n)) = .ok (.configure (some .gshare) 0 m1 n 0)) ∧
  (∀ k m1 n m2, decodeCommand (assemble (.configureHybrid k m1 n m2)) =
    .ok (.configure (some .hybrid) k m1 n m2)) ∧
  (∀ k m1 n m2, decodeCommand (assemble (.configureOther k m1 n m2)) = .ok (.configure none k m1 n m2)) ∧
  (∀ a token, decodeCommand (assemble (.event a token)) = .ok (.event (decide (token = 't')) a)) ∧
  decodeCommand (assemble .report) = .ok .report

/-! ### Steps -/

/-- A step is `exec` of the instruction the first presented input decodes to under `CFG.SCHEME`, at the state with that
input taken away; in particular on a word the host places. -/
def Obligations.StepRunsTheDecodedInstruction : Prop :=
  (∀ (s : State) (x : Input) (rest : List Input) (i : Instr), s.input = x :: rest →
    decodeInput s.cfg.scheme x = some i → step s = exec i (s.setInput rest)) ∧
  ∀ (s : State) (nbits w : Nat) (i : Instr), s.cfg.scheme = .bimodal → decodeTableWord nbits w = some i →
    step (s.withFetchWord nbits w) = exec i s

/-- With nothing presented a step leaves the engine as it is: the model's choice (log 3). -/
def Obligations.IdleStepChangesNothing : Prop :=
  ∀ s : State, s.input = [] → step s = .next s

/-- 70_reset section 1, last sentence of R155 (the spec's decision D26): the optional reset pin puts `PHASE` to UNCONFIGURED and `ERR` to 0, so that no table and no
history register exists. -/
def Obligations.ResetPinUnconfigures : Prop :=
  ∀ (s : State) (rest : List Input), s.input = .resetPin :: rest →
    ∃ t, step s = .next t ∧ t.phase = .unconfigured ∧ t.err = .noError ∧ t.input = rest ∧
      (∀ u, t.size u = 0) ∧ t.ghrWidth = 0

/-- 45_system R122: an EVENT word is refused outside READY, and in READY performs the operation of the stored scheme. -/
def Obligations.EventIsDispatchedByScheme : Prop :=
  ∀ (taken : Bool) (a : Addr) (s : State) (rest : List Input), s.input = .command (encodeEvent taken a) :: rest →
    (s.phase ≠ .ready → step s = .refused .eventOutsideReady) ∧
    (s.phase = .ready → s.cfg.scheme = .bimodal → step s = exec (.puBimodal taken a) (s.setInput rest)) ∧
    (s.phase = .ready → s.cfg.scheme = .gshare → step s = exec (.puGshare taken a) (s.setInput rest)) ∧
    (s.phase = .ready → s.cfg.scheme = .hybrid → step s = exec (.puHybrid taken a) (s.setInput rest))

/-- 60_exceptions R143: exactly when a presented command word is refused, by its bits and `PHASE`; a command word never
faults. -/
def Obligations.RefusedCommandWords : Prop :=
  ∀ (s : State) (w : CmdWord) (rest : List Input), s.input = .command w :: rest →
    ((∃ r, step s = .refused r) ↔
      w.toNat / 2 ^ 33 = 3 ∨
      (w.toNat / 2 ^ 33 = 0 ∧ w.toNat / 2 ^ 26 % 2 ^ 7 ≠ 0) ∨
      (w.toNat / 2 ^ 33 = 2 ∧ w.toNat % 2 ^ 33 ≠ 0) ∨
      (w.toNat / 2 ^ 33 = 1 ∧ s.phase ≠ .ready) ∨
      (w.toNat / 2 ^ 33 = 2 ∧ s.phase = .unconfigured)) ∧
    ∀ f, step s ≠ .fault f

/-- 60_exceptions R147: the phase table, on presented words. -/
def Obligations.PhaseTransitions : Prop :=
  ∀ (s : State) (rest : List Input),
    (∀ sch k m1 n m2, s.input = encode (.configure sch k m1 n m2) :: rest →
      ∃ t, step s = .next t ∧
        t.phase = if configCheck sch k m1 n m2 = .noError then .ready else .error) ∧
    (∀ taken a, s.input = .command (encodeEvent taken a) :: rest →
      (s.phase = .ready → ∃ t, step s = .next t ∧ t.phase = .ready) ∧
      (s.phase ≠ .ready → ∃ r, step s = .refused r)) ∧
    (s.input = encode .report :: rest →
      (s.phase ≠ .unconfigured → ∃ t, step s = .next t ∧ t.phase = s.phase) ∧
      (s.phase = .unconfigured → ∃ r, step s = .refused r))

/-! ### The invariant, and whole traces -/

/-- Power-on meets the invariant. -/
def Obligations.ResetMeetsTheInvariant : Prop := State.reset.Inv

/-- Every step keeps the invariant: canonical tables that list only cells that exist, `GHR` within its width, `NMISP <= NPRED`,
`ERR` set exactly in ERROR, a valid configuration in READY (10_state R17 to R19, 43_gshare R96, 60_exceptions R142). -/
def Obligations.StepKeepsTheInvariant : Prop :=
  ∀ s t : State, s.Inv → step s = .next t → t.Inv

/-- 70_reset R158: a trace of events presented in READY runs to its end, for every finite trace, and its final state is the
fold of the events over the state. -/
def Obligations.TraceIsAFoldOfEvents : Prop :=
  ∀ (evs : List (Bool × Addr)) (s : State) (rest : List Input), s.phase = .ready →
    s.input = evs.map eventInput ++ rest →
    runSteps evs.length s = .next (evs.foldl eventStep (s.setInput rest))

/-- 10_state section 5 (R17), 45_system section 2: over a trace of events `NPRED` grows by the number of events and `NMISP` by the number of those whose
prediction was wrong. -/
def Obligations.TotalsCountTheTrace : Prop :=
  ∀ (evs : List (Bool × Addr)) (s : State) (rest : List Input), s.phase = .ready →
    s.input = evs.map eventInput ++ rest →
    ∃ t, runSteps evs.length s = .next t ∧ t.phase = .ready ∧ t.cfg = s.cfg ∧
      t.npred = s.npred + evs.length ∧ t.nmisp = s.nmisp + mispredicted s evs

/-- 43_gshare section 1, content of the register (an inference the spec marks as derived, R97): after any trace, bit `N-1-j` of `GHR` is the outcome `j` events ago, and the positions the trace does
not reach hold what the register held, shifted down: 0 from construction. -/
def Obligations.HistoryHoldsTheLastOutcomes : Prop :=
  ∀ (evs : List (Bool × Addr)) (s : State) (rest : List Input), s.phase = .ready → s.cfg.scheme ≠ .bimodal →
    s.ghr < 2 ^ s.cfg.n.toNat → s.input = evs.map eventInput ++ rest →
    ∃ t, runSteps evs.length s = .next t ∧ t.ghr < 2 ^ s.cfg.n.toNat ∧
      (∀ j, j < s.cfg.n.toNat →
        t.ghr.testBit (s.cfg.n.toNat - 1 - j) =
          if j < evs.length then (evs.map Prod.fst).reverse.getD j false
          else s.ghr.testBit (s.cfg.n.toNat - 1 - j + evs.length)) ∧
      (s.ghr = 0 → ∀ j, evs.length ≤ j → j < s.cfg.n.toNat → t.ghr.testBit (s.cfg.n.toNat - 1 - j) = false)

/-- 43_gshare section 1, the consequences of R97 (quoted there from the source's testable properties): `N` taken events make `GHR` `2^N - 1`; `N` not-taken events make it 0. -/
def Obligations.HistoryFillsAndEmpties : Prop :=
  ∀ (evs : List (Bool × Addr)) (s : State) (rest : List Input), s.phase = .ready → s.cfg.scheme ≠ .bimodal →
    s.ghr < 2 ^ s.cfg.n.toNat → s.input = evs.map eventInput ++ rest → evs.length = s.cfg.n.toNat →
    ∃ t, runSteps evs.length s = .next t ∧
      ((∀ e ∈ evs, e.1 = true) → t.ghr = 2 ^ s.cfg.n.toNat - 1) ∧
      ((∀ e ∈ evs, e.1 = false) → t.ghr = 0)

/-- 44_hybrid R111: a hybrid engine's `GHR` is that of a gshare engine with the same `N` fed the same outcomes, whatever the
addresses and the chooser did. -/
def Obligations.HybridHistoryIsGshareHistory : Prop :=
  ∀ (evsH evsG : List (Bool × Addr)) (h g : State) (restH restG : List Input),
    h.phase = .ready → g.phase = .ready → h.cfg.scheme = .hybrid → g.cfg.scheme = .gshare →
    h.cfg.n = g.cfg.n → h.ghr = g.ghr → evsH.map Prod.fst = evsG.map Prod.fst →
    h.input = evsH.map eventInput ++ restH → g.input = evsG.map eventInput ++ restG →
    ∃ th tg, runSteps evsH.length h = .next th ∧ runSteps evsG.length g = .next tg ∧ th.ghr = tg.ghr

/-- 43_gshare section 2 (an inference the spec marks as derived, R101): with `N = 0` a gshare engine behaves, on every trace, as a bimodal engine with `GSH` in place of `BIM`
and exponent `M1`; its `GHR` stays 0; with `M1 = 0` too there is one cell. -/
def Obligations.GshareWithoutHistoryIsBimodal : Prop :=
  ∀ (evs : List (Bool × Addr)) (b g : State) (restB restG : List Input),
    b.phase = .ready → g.phase = .ready → b.cfg.scheme = .bimodal → g.cfg.scheme = .gshare →
    g.cfg.n = 0 → g.cfg.m1 = b.cfg.m2 → g.ghr = 0 → (∀ i, g.tblRead .gsh i = b.tblRead .bim i) →
    g.npred = b.npred → g.nmisp = b.nmisp → g.response = b.response →
    b.input = evs.map eventInput ++ restB → g.input = evs.map eventInput ++ restG →
    ∃ tb tg, runSteps evs.length b = .next tb ∧ runSteps evs.length g = .next tg ∧
      (∀ i, tg.tblRead .gsh i = tb.tblRead .bim i) ∧ tg.ghr = 0 ∧ tg.npred = tb.npred ∧ tg.nmisp = tb.nmisp ∧
      tg.response = tb.response ∧ (g.cfg.m1 = 0 → tg.size .gsh = 1)

/-- 00_scope R8: a trace replayed against a freshly constructed predictor of the same configuration gives the same state,
whatever the engine held before: the same tables, history, totals and result. -/
def Obligations.ReplayIsDeterministic : Prop :=
  ∀ (sc : Scheme) (k m1 n m2 : Exponent) (evs : List (Bool × Addr)) (s₁ s₂ : State) (rest₁ rest₂ : List Input),
    configCheck (some sc) k m1 n m2 = .noError →
    s₁.input = encode (.configure (some sc) k m1 n m2) :: (evs.map eventInput ++ rest₁) →
    s₂.input = encode (.configure (some sc) k m1 n m2) :: (evs.map eventInput ++ rest₂) →
    ∃ t₁ t₂, runSteps (evs.length + 1) s₁ = .next t₁ ∧ runSteps (evs.length + 1) s₂ = .next t₂ ∧
      t₂ = { t₁ with input := rest₂, draws := s₂.draws }
end

