-- ==== Sys2Proof/Laws/Counter.lean ====
section
/-! SUPPORT. The counter cell in numbers. -/

namespace Sys2Proof.Machine

variable (c : Counter)

theorem inc_toNat : (inc c).toNat = min (c.toNat + 1) 3 := by
  have := c.isLt
  simp only [inc, BitVec.toNat_ofNat]
  omega

theorem dec_toNat : (dec c).toNat = c.toNat - 1 := by
  have := c.isLt
  simp only [dec, BitVec.toNat_ofNat]
  omega

@[simp] theorem microOp_hold (up : Bool) : microOp false up = .hold := rfl

@[simp] theorem microOp_dec : microOp true false = .dec := rfl

@[simp] theorem microOp_inc : microOp true true = .inc := rfl

@[simp] theorem apply_hold : applyMicroOp .hold c = c := rfl

@[simp] theorem apply_dec : applyMicroOp .dec c = dec c := rfl

@[simp] theorem apply_inc : applyMicroOp .inc c = inc c := rfl

@[simp] theorem upd_taken : upd c true = inc c := rfl

@[simp] theorem upd_notTaken : upd c false = dec c := rfl

/-- A training update in numbers (40_counter R74). -/
theorem upd_toNat (o : Bool) : (upd c o).toNat = if o then min (c.toNat + 1) 3 else c.toNat - 1 := by
  cases o
  · simpa using dec_toNat c
  · simpa using inc_toNat c

/-- No micro-operation moves a cell by more than one. -/
theorem withinOne_apply (op : MicroOp) : withinOne (applyMicroOp op c) c := by
  cases op
  · simp [withinOne]
  · simp only [withinOne, apply_dec, dec_toNat]; omega
  · have := c.isLt
    simp only [withinOne, apply_inc, inc_toNat]; omega

theorem withinOne_refl : withinOne c c := by simp [withinOne]

end Sys2Proof.Machine
end

