-- ==== Sys2Proof/Laws/Index.lean ====
section
/-! SUPPORT. Masks and slices, the parts of the gshare index, and the bound of the history register. -/

namespace Sys2Proof.Machine

/-- Masking keeps the low bits. -/
@[simp] theorem and_mask (x w : Nat) : x &&& mask w = x % 2 ^ w := Nat.and_two_pow_sub_one_eq_mod x w

@[simp] theorem mask_zero : mask 0 = 0 := rfl

theorem slice_lt (v lo w : Nat) : slice v lo w < 2 ^ w := Nat.mod_lt _ (Nat.two_pow_pos w)

/-- A slice bit by bit. -/
theorem testBit_slice (v lo w j : Nat) : (slice v lo w).testBit j = (decide (j < w) && v.testBit (lo + j)) := by
  simp [slice, Nat.testBit_mod_two_pow, Nat.testBit_shiftRight]

theorem idxBimodal_eq_slice (m2 a : Nat) : idxBimodal m2 a = slice a 2 m2 := by simp [idxBimodal, slice]

/-- The chooser index is the bimodal one with another exponent (41_index R81). -/
theorem idxChooser_eq_idxBimodal (k a : Nat) : idxChooser k a = idxBimodal k a := rfl

theorem pcUpperN_eq_slice (m1 n a : Nat) : pcUpperN m1 n a = slice a (m1 - n + 2) n := by simp [pcUpperN, slice]

theorem pcLower_eq_slice (m1 n a : Nat) : pcLower m1 n a = slice a 2 (m1 - n) := by simp [pcLower, slice]

theorem folded_lt (m1 n a h : Nat) : folded m1 n a h < 2 ^ n := by
  unfold folded
  rw [and_mask, pcUpperN_eq_slice]
  exact Nat.xor_lt_two_pow (slice_lt _ _ _) (Nat.mod_lt _ (Nat.two_pow_pos n))

theorem pcLower_lt (m1 n a : Nat) : pcLower m1 n a < 2 ^ (m1 - n) := pcLower_eq_slice m1 n a ▸ slice_lt _ _ _

@[simp] theorem histShift_zero (h : Nat) (o : Bool) : histShift 0 h o = 0 := rfl

/-- The history register stays within its width (43_gshare R96). -/
theorem histShift_lt (n h : Nat) (o : Bool) : histShift n h o < 2 ^ n := by
  unfold histShift
  split
  · exact Nat.two_pow_pos n
  · rw [and_mask]; exact Nat.mod_lt _ (Nat.two_pow_pos n)

/-- An index depends on the address bits above bit 1 alone (20_memory R32). -/
theorem idxGshare_congr {a b : Nat} (h : a >>> 2 = b >>> 2) (m1 n g : Nat) : idxGshare m1 n a g = idxGshare m1 n b g := by
  have hs : ∀ x : Nat, x >>> (m1 - n + 2) = (x >>> 2) >>> (m1 - n) := fun x => by
    rw [← Nat.shiftRight_add, Nat.add_comm]
  simp only [idxGshare, folded, pcUpperN, pcLower, hs, h]

end Sys2Proof.Machine
end

