-- ==== Sys2Proof/Laws/Memory.lean ====
section
/-! SUPPORT. The sparse tables: read after write, and the canonical form every memory operation keeps. -/

namespace Sys2Proof.Machine

variable {d v : Counter} {l : List (Nat × Counter)} {i j : Nat}

/-! ### One list of cells -/

theorem readCells_filter_same : readCells d (l.filter (fun e => e.1 != i)) i = d := by
  induction l with
  | nil => rfl
  | cons e rest ih =>
    by_cases h : e.1 = i
    · simpa [List.filter_cons, h] using ih
    · simpa [List.filter_cons, h, readCells] using ih

theorem readCells_filter_other (h : j ≠ i) :
    readCells d (l.filter (fun e => e.1 != i)) j = readCells d l j := by
  induction l with
  | nil => rfl
  | cons e rest ih =>
    by_cases he : e.1 = i
    · have hj : e.1 ≠ j := fun hh => h (hh.symm.trans he)
      rw [List.filter_cons_of_neg (by simp [he])]
      simpa [readCells, hj] using ih
    · rw [List.filter_cons_of_pos (by simp [he])]
      simp [readCells, ih]

theorem readCells_insertCell_same (h : ∀ e ∈ l, e.1 ≠ i) : readCells d (insertCell i v l) i = v := by
  induction l with
  | nil => simp [insertCell, readCells]
  | cons e rest ih =>
    have he : e.1 ≠ i := h e (by simp)
    have hr := ih (fun x hx => h x (by simp [hx]))
    by_cases hlt : i < e.1 <;> simp [insertCell, hlt, readCells, he, hr]

theorem readCells_insertCell_other (h : j ≠ i) :
    readCells d (insertCell i v l) j = readCells d l j := by
  induction l with
  | nil => simp [insertCell, readCells, Ne.symm h]
  | cons e rest ih =>
    by_cases hlt : i < e.1
    · simp [insertCell, hlt, readCells, Ne.symm h]
    · simp [insertCell, hlt, readCells, ih]

/-- Reading the written cell gives the written value. -/
@[simp] theorem readCells_writeCells_same : readCells d (writeCells d l i v) i = v := by
  unfold writeCells
  split
  · rename_i h; simpa [h] using readCells_filter_same
  · exact readCells_insertCell_same (fun e he => by simpa using (List.mem_filter.1 he).2)

/-- Reading any other cell gives what it held. -/
theorem readCells_writeCells_other (h : j ≠ i) : readCells d (writeCells d l i v) j = readCells d l j := by
  unfold writeCells
  split
  · exact readCells_filter_other h
  · rw [readCells_insertCell_other h, readCells_filter_other h]

/-- The canonical form of a list that begins with an entry. -/
theorem cellsWf_cons {k : Nat} {w : Counter} :
    cellsWf d ((k, w) :: l) = true ↔ w ≠ d ∧ (∀ e ∈ l, k < e.1) ∧ cellsWf d l = true := by
  simp only [cellsWf, Bool.and_eq_true, bne_iff_ne, List.all_eq_true, decide_eq_true_eq, and_assoc]

theorem cellsWf_filter (p : Nat × Counter → Bool) (h : cellsWf d l = true) : cellsWf d (l.filter p) = true := by
  induction l with
  | nil => rfl
  | cons e rest ih =>
    obtain ⟨hv, hk, hr⟩ := cellsWf_cons.1 h
    by_cases hp : p e
    · rw [List.filter_cons_of_pos hp]
      exact cellsWf_cons.2 ⟨hv, fun x hx => hk x (List.mem_filter.1 hx).1, ih hr⟩
    · rw [List.filter_cons_of_neg hp]; exact ih hr

theorem mem_insertCell {e : Nat × Counter} : e ∈ insertCell i v l ↔ e = (i, v) ∨ e ∈ l := by
  induction l with
  | nil => simp [insertCell]
  | cons x rest ih =>
    by_cases hlt : i < x.1
    · simp [insertCell, hlt]
    · simp only [insertCell, hlt, if_false, List.mem_cons, ih]; tauto

theorem cellsWf_insertCell (hv : v ≠ d) (hi : ∀ e ∈ l, e.1 ≠ i) (h : cellsWf d l = true) :
    cellsWf d (insertCell i v l) = true := by
  induction l with
  | nil => simp [insertCell, cellsWf, hv]
  | cons x rest ih =>
    obtain ⟨hx, hk, hr⟩ := cellsWf_cons.1 h
    have hxi : x.1 ≠ i := hi x (by simp)
    by_cases hlt : i < x.1
    · simp only [insertCell, hlt, if_true]
      refine cellsWf_cons.2 ⟨hv, fun e he => ?_, h⟩
      rcases List.mem_cons.1 he with rfl | he
      · exact hlt
      · exact hlt.trans (hk e he)
    · simp only [insertCell, hlt, if_false]
      refine cellsWf_cons.2 ⟨hx, fun e he => ?_, ih (fun e he => hi e (by simp [he])) hr⟩
      rcases mem_insertCell.1 he with rfl | he
      · show x.1 < i
        omega
      · exact hk e he

/-- A write keeps the canonical form. -/
theorem cellsWf_writeCells (h : cellsWf d l = true) : cellsWf d (writeCells d l i v) = true := by
  unfold writeCells
  split
  · exact cellsWf_filter _ h
  · rename_i hv
    exact cellsWf_insertCell hv (fun e he => by simpa using (List.mem_filter.1 he).2) (cellsWf_filter _ h)

/-- A write inside a bound lists nothing beyond it. -/
theorem cellsBelow_writeCells {b : Nat} (hi : i < b) (h : cellsBelow b l = true) :
    cellsBelow b (writeCells d l i v) = true := by
  simp only [cellsBelow, List.all_eq_true, decide_eq_true_eq] at h ⊢
  intro e he
  unfold writeCells at he
  split at he
  · exact h e (List.mem_filter.1 he).1
  · rcases mem_insertCell.1 he with rfl | he
    · exact hi
    · exact h e (List.mem_filter.1 he).1

/-- Canonical lists that read alike are one list. -/
theorem eq_of_readCells_eq {l' : List (Nat × Counter)} (h : cellsWf d l = true) (h' : cellsWf d l' = true)
    (hr : ∀ j, readCells d l j = readCells d l' j) : l = l' := by
  have below : ∀ (k : Nat) (m : List (Nat × Counter)), (∀ e ∈ m, k < e.1) → readCells d m k = d := by
    intro k m
    induction m with
    | nil => intro _; rfl
    | cons e rest ih =>
      intro hm
      have : e.1 ≠ k := by have := hm e (by simp); omega
      simpa [readCells, this] using ih (fun x hx => hm x (by simp [hx]))
  induction l generalizing l' with
  | nil =>
    cases l' with
    | nil => rfl
    | cons e' r' =>
      exact absurd (by simpa [readCells] using (hr e'.1).symm) (cellsWf_cons.1 h').1
  | cons e r ih =>
    obtain ⟨hv, hk, hw⟩ := cellsWf_cons.1 h
    cases l' with
    | nil => exact absurd (by simpa [readCells] using hr e.1) hv
    | cons e' r' =>
      obtain ⟨hv', hk', hw'⟩ := cellsWf_cons.1 h'
      have key : e.1 = e'.1 := by
        rcases lt_trichotomy e.1 e'.1 with hlt | heq | hgt
        · have h1 := hr e.1
          rw [below e.1 (e' :: r') (by
            intro x hx
            rcases List.mem_cons.1 hx with rfl | hx
            · exact hlt
            · exact hlt.trans (hk' x hx))] at h1
          exact absurd (by simpa [readCells] using h1) hv
        · exact heq
        · have h1 := hr e'.1
          rw [below e'.1 (e :: r) (by
            intro x hx
            rcases List.mem_cons.1 hx with rfl | hx
            · exact hgt
            · exact hgt.trans (hk x hx))] at h1
          exact absurd (by simpa [readCells] using h1.symm) hv'
      have val : e.2 = e'.2 := by have h1 := hr e.1; simpa [readCells, key] using h1
      have tails : ∀ j, readCells d r j = readCells d r' j := by
        intro j
        by_cases hj : e.1 = j
        · subst hj
          rw [below _ r hk, key, below _ r' hk']
        · have h1 := hr j
          simpa [readCells, hj, key ▸ hj] using h1
      rw [ih hw hw' tails, Prod.ext key val]

/-! ### The three tables -/

variable {m : Memory} {t u : TableId}

@[simp] theorem cells_setCells_same : (m.setCells t l).cells t = l := by cases t <;> rfl

theorem cells_setCells_other (h : u ≠ t) : (m.setCells t l).cells u = m.cells u := by
  cases t <;> cases u <;> first | rfl | exact absurd rfl h

@[simp] theorem cells_write_same :
    (m.write t i v).cells t = writeCells (resetValue t) (m.cells t) i v := cells_setCells_same

theorem cells_write_other (h : u ≠ t) : (m.write t i v).cells u = m.cells u := cells_setCells_other h

@[simp] theorem read_write_same : (m.write t i v).read t i = v := by simp [Memory.read]

theorem read_write_other (h : u ≠ t ∨ j ≠ i) : (m.write t i v).read u j = m.read u j := by
  by_cases hu : u = t
  · subst hu
    simpa [Memory.read] using readCells_writeCells_other (h.resolve_left (· rfl))
  · simp [Memory.read, cells_write_other hu]

/-- TblWrite in one line: the written cell holds the value, every other cell what it held (20_memory R34). -/
theorem read_write : (m.write t i v).read u j = if u = t ∧ j = i then v else m.read u j := by
  split
  · rename_i h; obtain ⟨rfl, rfl⟩ := h; exact read_write_same
  · rename_i h; exact read_write_other (by tauto)

@[simp] theorem read_empty : Memory.empty.read t i = resetValue t := by cases t <;> rfl

theorem wf_iff : m.wf = true ↔ ∀ t, cellsWf (resetValue t) (m.cells t) = true := by
  simp only [Memory.wf, Bool.and_eq_true]
  exact ⟨fun h t => by cases t; exacts [h.1.1, h.1.2, h.2], fun h => ⟨⟨h .bim, h .gsh⟩, h .cho⟩⟩

/-- TblWrite keeps the canonical form of the memory. -/
theorem wf_write (h : m.wf = true) : (m.write t i v).wf = true := by
  rw [wf_iff] at h ⊢
  intro u
  by_cases hu : u = t
  · subst hu; simpa using cellsWf_writeCells (h u)
  · rw [cells_write_other hu]; exact h u

@[simp] theorem wf_empty : Memory.empty.wf = true := rfl

@[simp] theorem cells_empty : Memory.empty.cells t = [] := by cases t <;> rfl

/-- Canonical memories that read alike are equal data. -/
theorem memory_ext {m' : Memory} (h : m.wf = true) (h' : m'.wf = true)
    (hr : ∀ t j, m.read t j = m'.read t j) : m = m' := by
  have hc : ∀ t, m.cells t = m'.cells t := fun t =>
    eq_of_readCells_eq (wf_iff.1 h t) (wf_iff.1 h' t) (hr t)
  cases m; cases m'
  have h1 := hc .bim; have h2 := hc .gsh; have h3 := hc .cho
  simp only [Memory.cells] at h1 h2 h3
  simp [h1, h2, h3]

/-- Writing back what a cell holds changes nothing (40_counter R73, a saturated cell rewritten). -/
theorem write_read_self (h : m.wf = true) : m.write t i (m.read t i) = m :=
  memory_ext (wf_write h) h (fun u j => by
    rw [read_write]
    split
    · rename_i hh; rw [hh.1, hh.2]
    · rfl)

end Sys2Proof.Machine
end

