-- ==== Sys2Proof/Laws/State.lean ====
section
/-! SUPPORT. One lemma per field of State per named update of Machine/Ops.lean. -/

namespace Sys2Proof.Machine

variable (s : State)

/-! ### tblWrite -/

@[simp] theorem tblWrite_phase (t : TableId) (i : Nat) (v : Counter) : (s.tblWrite t i v).phase = s.phase := rfl
@[simp] theorem tblWrite_err (t : TableId) (i : Nat) (v : Counter) : (s.tblWrite t i v).err = s.err := rfl
@[simp] theorem tblWrite_cfg (t : TableId) (i : Nat) (v : Counter) : (s.tblWrite t i v).cfg = s.cfg := rfl
@[simp] theorem tblWrite_mem (t : TableId) (i : Nat) (v : Counter) : (s.tblWrite t i v).mem = s.mem.write t i v := rfl
@[simp] theorem tblWrite_ghr (t : TableId) (i : Nat) (v : Counter) : (s.tblWrite t i v).ghr = s.ghr := rfl
@[simp] theorem tblWrite_npred (t : TableId) (i : Nat) (v : Counter) : (s.tblWrite t i v).npred = s.npred := rfl
@[simp] theorem tblWrite_nmisp (t : TableId) (i : Nat) (v : Counter) : (s.tblWrite t i v).nmisp = s.nmisp := rfl
@[simp] theorem tblWrite_input (t : TableId) (i : Nat) (v : Counter) : (s.tblWrite t i v).input = s.input := rfl
@[simp] theorem tblWrite_response (t : TableId) (i : Nat) (v : Counter) : (s.tblWrite t i v).response = s.response := rfl
@[simp] theorem tblWrite_draws (t : TableId) (i : Nat) (v : Counter) : (s.tblWrite t i v).draws = s.draws := rfl

/-! ### shiftHistory -/

@[simp] theorem shiftHistory_phase (o : Bool) : (s.shiftHistory o).phase = s.phase := rfl
@[simp] theorem shiftHistory_err (o : Bool) : (s.shiftHistory o).err = s.err := rfl
@[simp] theorem shiftHistory_cfg (o : Bool) : (s.shiftHistory o).cfg = s.cfg := rfl
@[simp] theorem shiftHistory_mem (o : Bool) : (s.shiftHistory o).mem = s.mem := rfl
@[simp] theorem shiftHistory_ghr (o : Bool) : (s.shiftHistory o).ghr = histShift s.cfg.n.toNat s.ghr o := rfl
@[simp] theorem shiftHistory_npred (o : Bool) : (s.shiftHistory o).npred = s.npred := rfl
@[simp] theorem shiftHistory_nmisp (o : Bool) : (s.shiftHistory o).nmisp = s.nmisp := rfl
@[simp] theorem shiftHistory_input (o : Bool) : (s.shiftHistory o).input = s.input := rfl
@[simp] theorem shiftHistory_response (o : Bool) : (s.shiftHistory o).response = s.response := rfl
@[simp] theorem shiftHistory_draws (o : Bool) : (s.shiftHistory o).draws = s.draws := rfl

/-! ### respond -/

@[simp] theorem respond_phase (r : Response) : (s.respond r).phase = s.phase := rfl
@[simp] theorem respond_err (r : Response) : (s.respond r).err = s.err := rfl
@[simp] theorem respond_cfg (r : Response) : (s.respond r).cfg = s.cfg := rfl
@[simp] theorem respond_mem (r : Response) : (s.respond r).mem = s.mem := rfl
@[simp] theorem respond_ghr (r : Response) : (s.respond r).ghr = s.ghr := rfl
@[simp] theorem respond_npred (r : Response) : (s.respond r).npred = s.npred := rfl
@[simp] theorem respond_nmisp (r : Response) : (s.respond r).nmisp = s.nmisp := rfl
@[simp] theorem respond_input (r : Response) : (s.respond r).input = s.input := rfl
@[simp] theorem respond_response (r : Response) : (s.respond r).response = some r := rfl
@[simp] theorem respond_draws (r : Response) : (s.respond r).draws = s.draws := rfl

/-! ### setInput -/

@[simp] theorem setInput_phase (l : List Input) : (s.setInput l).phase = s.phase := rfl
@[simp] theorem setInput_err (l : List Input) : (s.setInput l).err = s.err := rfl
@[simp] theorem setInput_cfg (l : List Input) : (s.setInput l).cfg = s.cfg := rfl
@[simp] theorem setInput_mem (l : List Input) : (s.setInput l).mem = s.mem := rfl
@[simp] theorem setInput_ghr (l : List Input) : (s.setInput l).ghr = s.ghr := rfl
@[simp] theorem setInput_npred (l : List Input) : (s.setInput l).npred = s.npred := rfl
@[simp] theorem setInput_nmisp (l : List Input) : (s.setInput l).nmisp = s.nmisp := rfl
@[simp] theorem setInput_input (l : List Input) : (s.setInput l).input = l := rfl
@[simp] theorem setInput_response (l : List Input) : (s.setInput l).response = s.response := rfl
@[simp] theorem setInput_draws (l : List Input) : (s.setInput l).draws = s.draws := rfl

/-! ### count -/

@[simp] theorem count_phase (correct : Bool) : (s.count correct).phase = s.phase := rfl
@[simp] theorem count_err (correct : Bool) : (s.count correct).err = s.err := rfl
@[simp] theorem count_cfg (correct : Bool) : (s.count correct).cfg = s.cfg := rfl
@[simp] theorem count_mem (correct : Bool) : (s.count correct).mem = s.mem := rfl
@[simp] theorem count_ghr (correct : Bool) : (s.count correct).ghr = s.ghr := rfl
@[simp] theorem count_npred (correct : Bool) : (s.count correct).npred = s.npred + 1 := rfl
@[simp] theorem count_nmisp (correct : Bool) : (s.count correct).nmisp = s.nmisp + (if correct then 0 else 1) := rfl
@[simp] theorem count_input (correct : Bool) : (s.count correct).input = s.input := rfl
@[simp] theorem count_response (correct : Bool) : (s.count correct).response = s.response := rfl
@[simp] theorem count_draws (correct : Bool) : (s.count correct).draws = s.draws := rfl

/-! ### finishEvent -/

@[simp] theorem finishEvent_phase (p o : Bool) : (s.finishEvent p o).phase = s.phase := rfl
@[simp] theorem finishEvent_err (p o : Bool) : (s.finishEvent p o).err = s.err := rfl
@[simp] theorem finishEvent_cfg (p o : Bool) : (s.finishEvent p o).cfg = s.cfg := rfl
@[simp] theorem finishEvent_mem (p o : Bool) : (s.finishEvent p o).mem = s.mem := rfl
@[simp] theorem finishEvent_ghr (p o : Bool) : (s.finishEvent p o).ghr = s.ghr := rfl
@[simp] theorem finishEvent_npred (p o : Bool) : (s.finishEvent p o).npred = s.npred + 1 := rfl
@[simp] theorem finishEvent_nmisp (p o : Bool) : (s.finishEvent p o).nmisp = s.nmisp + (if correctFlag p o then 0 else 1) := rfl
@[simp] theorem finishEvent_input (p o : Bool) : (s.finishEvent p o).input = s.input := rfl
@[simp] theorem finishEvent_response (p o : Bool) : (s.finishEvent p o).response = some (.event (correctFlag p o) p) := rfl
@[simp] theorem finishEvent_draws (p o : Bool) : (s.finishEvent p o).draws = s.draws := rfl

/-! ### construct -/

@[simp] theorem construct_phase (c : Cfg) : (s.construct c).phase = .ready := rfl
@[simp] theorem construct_err (c : Cfg) : (s.construct c).err = .noError := rfl
@[simp] theorem construct_cfg (c : Cfg) : (s.construct c).cfg = c := rfl
@[simp] theorem construct_mem (c : Cfg) : (s.construct c).mem = .empty := rfl
@[simp] theorem construct_ghr (c : Cfg) : (s.construct c).ghr = 0 := rfl
@[simp] theorem construct_npred (c : Cfg) : (s.construct c).npred = 0 := rfl
@[simp] theorem construct_nmisp (c : Cfg) : (s.construct c).nmisp = 0 := rfl
@[simp] theorem construct_input (c : Cfg) : (s.construct c).input = s.input := rfl
@[simp] theorem construct_response (c : Cfg) : (s.construct c).response = some .accepted := rfl
@[simp] theorem construct_draws (c : Cfg) : (s.construct c).draws = s.draws := rfl

/-! ### raiseConfigError -/

@[simp] theorem raiseConfigError_phase (code : ErrCode) : (s.raiseConfigError code).phase = .error := rfl
@[simp] theorem raiseConfigError_err (code : ErrCode) : (s.raiseConfigError code).err = code := rfl
@[simp] theorem raiseConfigError_cfg (code : ErrCode) : (s.raiseConfigError code).cfg = unspecifiedCfg s.draws := rfl
@[simp] theorem raiseConfigError_mem (code : ErrCode) : (s.raiseConfigError code).mem = .empty := rfl
@[simp] theorem raiseConfigError_ghr (code : ErrCode) : (s.raiseConfigError code).ghr = 0 := rfl
@[simp] theorem raiseConfigError_npred (code : ErrCode) : (s.raiseConfigError code).npred = 0 := rfl
@[simp] theorem raiseConfigError_nmisp (code : ErrCode) : (s.raiseConfigError code).nmisp = 0 := rfl
@[simp] theorem raiseConfigError_input (code : ErrCode) : (s.raiseConfigError code).input = s.input := rfl
@[simp] theorem raiseConfigError_response (code : ErrCode) : (s.raiseConfigError code).response = some (.rejected code) := rfl
@[simp] theorem raiseConfigError_draws (code : ErrCode) : (s.raiseConfigError code).draws = s.draws + 1 := rfl

/-! ### electricalReset -/

@[simp] theorem electricalReset_phase : (s.electricalReset).phase = .unconfigured := rfl
@[simp] theorem electricalReset_err : (s.electricalReset).err = .noError := rfl
@[simp] theorem electricalReset_cfg : (s.electricalReset).cfg = unspecifiedCfg s.draws := rfl
@[simp] theorem electricalReset_mem : (s.electricalReset).mem = .empty := rfl
@[simp] theorem electricalReset_ghr : (s.electricalReset).ghr = 0 := rfl
@[simp] theorem electricalReset_npred : (s.electricalReset).npred = Config.unspecifiedNpred s.draws := rfl
@[simp] theorem electricalReset_nmisp : (s.electricalReset).nmisp = min (Config.unspecifiedNmisp s.draws) (Config.unspecifiedNpred s.draws) := rfl
@[simp] theorem electricalReset_input : (s.electricalReset).input = s.input := rfl
@[simp] theorem electricalReset_response : (s.electricalReset).response = none := rfl
@[simp] theorem electricalReset_draws : (s.electricalReset).draws = s.draws + 1 := rfl

end Sys2Proof.Machine
end

