-- ==== Sys2Proof/Laws/Ops.lean ====
section
/-! SUPPORT. What each shared operation and each meaning can do, said once. -/

namespace Sys2Proof.Machine

variable {s t : State}

/-! ### Cells of a state -/

/-- TblWrite read back (20_memory R34). -/
theorem tblRead_tblWrite (tb u : TableId) (i j : Nat) (v : Counter) :
    (s.tblWrite tb i v).tblRead u j = if u = tb ∧ j = i then v else s.tblRead u j := read_write

@[simp] theorem tblRead_shiftHistory (o : Bool) (u : TableId) (j : Nat) :
    (s.shiftHistory o).tblRead u j = s.tblRead u j := rfl

@[simp] theorem tblRead_finishEvent (p o : Bool) (u : TableId) (j : Nat) :
    (s.finishEvent p o).tblRead u j = s.tblRead u j := rfl

@[simp] theorem tblRead_respond (r : Response) (u : TableId) (j : Nat) :
    (s.respond r).tblRead u j = s.tblRead u j := rfl

@[simp] theorem tblRead_setInput (l : List Input) (u : TableId) (j : Nat) :
    (s.setInput l).tblRead u j = s.tblRead u j := rfl

@[simp] theorem tblRead_construct (c : Cfg) (u : TableId) (j : Nat) :
    (s.construct c).tblRead u j = resetValue u := read_empty

/-- Which tables exist depends on `PHASE` and `CFG` alone. -/
theorem owns_congr (hp : t.phase = s.phase) (hc : t.cfg = s.cfg) (u : TableId) : t.owns u = s.owns u := by
  simp [State.owns, hp, hc]

theorem size_congr (hp : t.phase = s.phase) (hc : t.cfg = s.cfg) (u : TableId) : t.size u = s.size u := by
  simp [State.size, owns_congr hp hc, hc]

theorem ghrWidth_congr (hp : t.phase = s.phase) (hc : t.cfg = s.cfg) : t.ghrWidth = s.ghrWidth := by
  simp [State.ghrWidth, owns_congr hp hc, hc]

/-- Outside READY no table exists. -/
theorem size_notReady (h : s.phase ≠ .ready) (u : TableId) : s.size u = 0 := by simp [State.size, State.owns, h]

theorem ghrWidth_notReady (h : s.phase ≠ .ready) : s.ghrWidth = 0 := by simp [State.ghrWidth, State.owns, h]

/-- The size of a table its scheme owns. -/
theorem size_ready {u : TableId} (h : s.phase = .ready) (ho : schemeOwns s.cfg.scheme u = true) :
    s.size u = 2 ^ tableExponent u s.cfg := by simp [State.size, State.owns, h, ho]

/-! ### Events and drives -/

/-- An EVENT goes on exactly in READY under its own scheme, and then to the given state. -/
theorem performEvent_eq_next {sch : Scheme} {s' : State} :
    performEvent sch s s' = .next t ↔ s.phase = .ready ∧ s.cfg.scheme = sch ∧ t = s' := by
  unfold performEvent
  split
  · split
    · simp_all [eq_comm]
    · simp_all
  · simp_all

/-- An EVENT never faults. -/
theorem performEvent_ne_fault {sch : Scheme} {s' : State} {f : Fault} : performEvent sch s s' ≠ .fault f := by
  unfold performEvent
  split
  · split <;> simp
  · simp

/-- A drive goes on exactly where the cell exists, and then rewrites that cell alone. -/
theorem driveCell_eq_next {op : MicroOp} {c : CellRef} :
    driveCell op c s = .next t ↔
      s.hasCell c = true ∧ t = s.tblWrite c.table c.index (applyMicroOp op (s.tblRead c.table c.index)) := by
  unfold driveCell
  split
  · rename_i h; simp [h, eq_comm]
  · rename_i h; simp [h]

/-- An event ends in a state with the same phase, error code, configuration, inputs and draws. -/
theorem bimodalEvent_frame (o : Bool) (a : Addr) :
    bimodalEvent o a s = { s with
      mem := (bimodalEvent o a s).mem, npred := (bimodalEvent o a s).npred, nmisp := (bimodalEvent o a s).nmisp
      response := (bimodalEvent o a s).response } := rfl

theorem gshareEvent_frame (o : Bool) (a : Addr) :
    gshareEvent o a s = { s with
      mem := (gshareEvent o a s).mem, ghr := (gshareEvent o a s).ghr, npred := (gshareEvent o a s).npred
      nmisp := (gshareEvent o a s).nmisp, response := (gshareEvent o a s).response } := rfl

theorem hybridEvent_frame (o : Bool) (a : Addr) :
    hybridEvent o a s = { s with
      mem := (hybridEvent o a s).mem, ghr := (hybridEvent o a s).ghr, npred := (hybridEvent o a s).npred
      nmisp := (hybridEvent o a s).nmisp, response := (hybridEvent o a s).response } := by
  unfold hybridEvent trainSelected
  split <;> rfl

/-! ### CONFIGURE and REPORT -/

/-- CONFIGURE always goes on: it constructs, or it raises ConfigError. -/
theorem execConfigure_cases (sch : Option Scheme) (k m1 n m2 : Exponent) :
    (∃ sc, sch = some sc ∧ configCheck sch k m1 n m2 = .noError ∧
      execConfigure sch k m1 n m2 s = .next (s.construct ⟨sc, k, m1, n, m2⟩)) ∨
    (configCheck sch k m1 n m2 ≠ .noError ∧
      execConfigure sch k m1 n m2 s = .next (s.raiseConfigError (configCheck sch k m1 n m2))) := by
  by_cases h : configCheck sch k m1 n m2 = .noError
  · cases sch with
    | none => simp [configCheck] at h
    | some sc => exact .inl ⟨sc, rfl, h, by simp only [execConfigure, h]⟩
  · refine .inr ⟨h, ?_⟩
    cases sch with
    | none => rfl
    | some sc =>
      unfold execConfigure
      split
      · rename_i h'; exact absurd h' h
      · rfl

/-- REPORT goes on exactly where an instance or an error exists, and then only returns a result. -/
theorem execReport_cases :
    (s.phase = .unconfigured ∧ execReport s = .refused .reportUnconfigured) ∨
    (s.phase = .ready ∧ execReport s = .next (s.respond (.report (runReport s)))) ∨
    (s.phase = .error ∧ execReport s = .next (s.respond (.errorReport .error s.err))) := by
  unfold execReport
  split <;> simp_all

/-- REPORT lists a table cell by cell (45_system R127). -/
theorem tablePairs_getElem? (u : TableId) (i : Nat) :
    (tablePairs s u)[i]? = if i < s.size u then some (i, s.tblRead u i) else none := by
  simp only [tablePairs, List.getElem?_map]
  split
  · rename_i h; simp [List.getElem?_range h]
  · rename_i h; simp [Nat.le_of_not_lt h]

/-! ### Steps -/

/-- With nothing presented the engine waits. -/
theorem step_nil (h : s.input = []) : step s = .next s := by simp [step, fetch, h]

/-- A step performs the first presented input. -/
theorem step_cons {x : Input} {rest : List Input} (h : s.input = x :: rest) :
    step s = performInput x (s.setInput rest) := by simp [step, fetch, h]

/-- Runs are steps. -/
theorem runSteps_succ (k : Nat) (h : step s = .next t) : runSteps (k + 1) s = runSteps k t := by
  have h' : Sys2Proof.core.step s = .next t := h
  simp only [runSteps, Host.Core.run, h']
  rfl

@[simp] theorem runSteps_zero : runSteps 0 s = .next s := rfl

end Sys2Proof.Machine
end

