-- ==== Sys2Proof/Laws/PerInstr.lean ====
section
/-! SUPPORT. Each instruction's word has the fixed bits of its row in spec/opcode_table.json, whatever its operands. -/

namespace Sys2Proof.Laws.RowBits

/-- `mask` and `match` of a format-CF, EV or RP row, or of a CT row, as the table gives them. -/
def rowBits : Instr → Nat × Nat
  | .configure _ _ _ _ _ => (0x7FC000000, 0x000000000)
  | .puBimodal _ _ => (0x600000000, 0x200000000)
  | .puGshare _ _ => (0x600000000, 0x200000000)
  | .puHybrid _ _ => (0x600000000, 0x200000000)
  | .report => (0x7FFFFFFFF, 0x400000000)
  | .ctrHold _ _ => (0x2, 0x0)
  | .ctrDec _ => (0x3, 0x2)
  | .ctrInc _ => (0x3, 0x3)

/-- An input's word under a row's mask is the row's match. -/
def matchesRow (row : Nat × Nat) : Input → Prop
  | .command w => w &&& BitVec.ofNat 35 row.1 = BitVec.ofNat 35 row.2
  | .control _ w => w &&& BitVec.ofNat 2 row.1 = BitVec.ofNat 2 row.2
  | .resetPin => False

/-- The statement about an instruction. -/
def Statement (i : Instr) : Prop := matchesRow (rowBits i) (encode i)

/-- A word under a mask that is a mask of each part. -/
theorem append_and {m n : Nat} (x p : BitVec m) (y q : BitVec n) :
    (x ++ y) &&& (p ++ q) = (x &&& p) ++ (y &&& q) := by
  ext i
  simp only [BitVec.getElem_and, BitVec.getElem_append]
  split <;> rfl

theorem event_bits (taken : Bool) (a : Addr) :
    encodeEvent taken a &&& 0x600000000#35 = 0x200000000#35 := by
  have hm : (0x600000000#35) = 3#2 ++ 0#33 := by decide
  rw [encodeEvent, hm, append_and, BitVec.and_zero]
  decide

theorem configure (sch : Option Scheme) (k m1 n m2 : Exponent) : Statement (.configure sch k m1 n m2) := by
  show encodeConfigure sch k m1 n m2 &&& 0x7FC000000#35 = 0#35
  have hm : (0x7FC000000#35) = 3#2 ++ (127#7 ++ 0#26) := by decide
  rw [encodeConfigure, hm, append_and, append_and, BitVec.and_zero]
  decide

theorem puBimodal (taken : Bool) (a : Addr) : Statement (.puBimodal taken a) := event_bits taken a

theorem puGshare (taken : Bool) (a : Addr) : Statement (.puGshare taken a) := event_bits taken a

theorem puHybrid (taken : Bool) (a : Addr) : Statement (.puHybrid taken a) := event_bits taken a

theorem report : Statement .report := by
  show encodeReport &&& 0x7FFFFFFFF#35 = 0x400000000#35
  decide

theorem ctrHold (cell : CellRef) (up : Bool) : Statement (.ctrHold cell up) := by
  show encodeControl false up &&& 2#2 = 0#2
  cases up <;> decide

theorem ctrDec (cell : CellRef) : Statement (.ctrDec cell) := by
  show encodeControl true false &&& 3#2 = 2#2
  decide

theorem ctrInc (cell : CellRef) : Statement (.ctrInc cell) := by
  show encodeControl true true &&& 3#2 = 3#2
  decide

end Sys2Proof.Laws.RowBits
end

