-- ==== Sys2Proof/Laws/Words.lean ====
section
/-! SUPPORT. Words as numbers: concatenation, fields, and the number each format encodes to. -/

namespace Sys2Proof

/-- Concatenation puts the left word above the right one. -/
theorem toNat_append_add {m n : Nat} (x : BitVec m) (y : BitVec n) :
    (x ++ y).toNat = x.toNat * 2 ^ n + y.toNat := by
  rw [BitVec.toNat_append, Nat.shiftLeft_eq, Nat.mul_comm]
  exact (Nat.two_pow_add_eq_or_of_lt y.isLt x.toNat).symm

/-- A field of a word, in numbers. -/
theorem toNat_extract {w : Nat} (x : BitVec w) (lo len : Nat) :
    (x.extractLsb' lo len).toNat = x.toNat / 2 ^ lo % 2 ^ len := by
  rw [BitVec.extractLsb'_toNat, Nat.shiftRight_eq_div_pow]

theorem encodeConfigure_toNat (sch : Option Scheme) (k m1 n m2 : Exponent) :
    (encodeConfigure sch k m1 n m2).toNat =
      (codeOfScheme sch).toNat * 2 ^ 24 + k.toNat * 2 ^ 18 + m1.toNat * 2 ^ 12 + n.toNat * 2 ^ 6 + m2.toNat := by
  simp only [encodeConfigure, toNat_append_add]
  simp only [BitVec.toNat_ofNat]
  omega

theorem encodeEvent_toNat (taken : Bool) (a : Addr) :
    (encodeEvent taken a).toNat = 2 ^ 33 + (if taken then 2 ^ 32 else 0) + a.toNat := by
  simp only [encodeEvent, toNat_append_add, BitVec.toNat_ofBool]
  cases taken
  · simp
  · simp; omega

theorem encodeReport_toNat : encodeReport.toNat = 2 ^ 34 := by decide

/-- Every scheme operand comes back from its code. -/
@[simp] theorem schemeOfCode_codeOfScheme (sch : Option Scheme) : schemeOfCode (codeOfScheme sch) = sch := by
  rcases sch with _ | sch
  · rfl
  · cases sch <;> rfl

/-- Every code comes back from its scheme operand. -/
@[simp] theorem codeOfScheme_schemeOfCode (c : BitVec 2) : codeOfScheme (schemeOfCode c) = c := by
  revert c; decide

end Sys2Proof
end

