-- ==== Sys2Proof/Tests/Slice0.lean ====
section
/-! SUPPORT. Small tests, their expected values from 95_test_vectors and the rules; the check on instructions; and for every
statement with hypotheses a witness that meets them. -/

namespace Sys2Proof.Tests

open Sys2Proof Sys2Proof.Machine

/-! ### Small states -/

/-- `configure bimodal 2`, just constructed. -/
def bim2 : State := State.reset.construct ⟨.bimodal, 0, 0, 0, 2⟩

/-- `configure gshare 2 2`, just constructed. -/
def gsh22 : State := State.reset.construct ⟨.gshare, 0, 2, 2, 0⟩

/-- `configure hybrid 1 2 1 1`, just constructed. -/
def hyb1211 : State := State.reset.construct ⟨.hybrid, 1, 2, 1, 1⟩

/-- ERROR with code 2, totals 0 (a rejected `configure gshare 2 3`). -/
def errored : State := { State.reset with phase := .error, err := .histWidth }

/-- The contents of a table from index 0. -/
def contents (s : State) (t : TableId) : List Counter := (tablePairs s t).map Prod.snd

/-- An outcome goes on to a state with a property. -/
def nextWith (o : Host.Outcome State Fault Refusal) (p : State → Bool) : Bool :=
  match o with
  | .next t => p t
  | .fault _ => false
  | .refused _ => false

/-- An outcome is a given refusal. -/
def refusedWith (o : Host.Outcome State Fault Refusal) (r : Refusal) : Bool :=
  match o with
  | .next _ => false
  | .fault _ => false
  | .refused r' => decide (r' = r)

/-! ### WellFormed: each check refuses an ill-formed term -/

theorem test_wf_refuses_hold_beyond_largest_table : (Instr.ctrHold ⟨.bim, 2 ^ 30⟩ true).wf = false := by decide

theorem test_wf_refuses_dec_beyond_largest_table : (Instr.ctrDec ⟨.gsh, 2 ^ 30⟩).wf = false := by decide

theorem test_wf_refuses_inc_beyond_largest_table : (Instr.ctrInc ⟨.cho, 2 ^ 30⟩).wf = false := by decide

theorem test_wf_accepts_last_cell : (Instr.ctrInc ⟨.cho, 2 ^ 30 - 1⟩).wf = true := by decide

/-! ### Decoding: words written out bit by bit from 30_encoding R51 to R57 -/

theorem test_decode_configure :
    decodeInput .bimodal (.command 0b00000000010000001000010000001000001#35) =
      some (.configure (some .hybrid) 1 2 1 1) := by decide

theorem test_decode_configure_invalid_scheme :
    decodeInput .bimodal (.command 0x0030020C0#35) = some (.configure none 0 2 3 0) := by decide

theorem test_decode_puBimodal :
    decodeInput .bimodal (.command 0b01100000000000000000000000000000100#35) = some (.puBimodal true 4) := by decide

theorem test_decode_puGshare :
    decodeInput .gshare (.command 0b01000000000000000000000000000000100#35) = some (.puGshare false 4) := by decide

theorem test_decode_puHybrid :
    decodeInput .hybrid (.command 0x3DEADBEEF#35) = some (.puHybrid true 0xDEADBEEF#32) := by decide

theorem test_decode_report :
    decodeInput .gshare (.command 0b10000000000000000000000000000000000#35) = some .report := by decide

theorem test_decode_ctr :
    decodeInput .bimodal (.control ⟨.gsh, 5⟩ 0b00#2) = some (.ctrHold ⟨.gsh, 5⟩ false) ∧
    decodeInput .bimodal (.control ⟨.gsh, 5⟩ 0b01#2) = some (.ctrHold ⟨.gsh, 5⟩ true) ∧
    decodeInput .bimodal (.control ⟨.gsh, 5⟩ 0b10#2) = some (.ctrDec ⟨.gsh, 5⟩) ∧
    decodeInput .bimodal (.control ⟨.gsh, 5⟩ 0b11#2) = some (.ctrInc ⟨.gsh, 5⟩) := by decide

/-- 95_test_vectors 2.8, the invalid words. -/
theorem test_decode_reserved :
    decodeCommand 0x400000001#35 = .error .reportPayload ∧ decodeCommand 0x500000000#35 = .error .reportPayload ∧
    decodeCommand 0x600000000#35 = .error .cmdThree ∧ decodeCommand 0x7FFFFFFFF#35 = .error .cmdThree ∧
    decodeCommand 0x004000000#35 = .error .configureZ ∧ decodeCommand 0x100000000#35 = .error .configureZ := by decide

/-- The rows of opcode_table.json, operands zero. -/
theorem test_decodeTableWord :
    decodeTableWord 40 0x000000000 = some (.configure (some .bimodal) 0 0 0 0) ∧
    decodeTableWord 40 0x200000000 = some (.puBimodal false 0) ∧
    decodeTableWord 40 0x400000000 = some .report ∧
    decodeTableWord 8 0 = some (.ctrHold ⟨.bim, 0⟩ false) ∧
    decodeTableWord 8 2 = some (.ctrDec ⟨.bim, 0⟩) ∧ decodeTableWord 8 3 = some (.ctrInc ⟨.bim, 0⟩) := by decide

/-- 95_test_vectors programs P1, P2, P3: lines and their words. -/
theorem test_assemble :
    assemble (.configureBimodal 2) = 0x000000002#35 ∧ assemble (.configureGshare 3 2) = 0x001003080#35 ∧
    assemble (.configureHybrid 1 2 1 1) = 0x002042041#35 ∧ assemble (.event 0x14 'n') = 0x200000014#35 ∧
    assemble (.event 0x24 't') = 0x300000024#35 ∧ assemble (.event 0x24 'T') = 0x200000024#35 ∧
    assemble .report = 0x400000000#35 := by decide

/-! ### Operands and conditions -/

/-- 00_scope R4, 30_encoding R51: the widths the types are written with are those of `AW`. -/
theorem test_widths : Addr = BitVec Config.AW ∧ CmdWord = BitVec (Config.AW + 3) := ⟨rfl, rfl⟩

/-- 95_test_vectors 2.2. -/
theorem test_direct_indices :
    idxBimodal 2 0x14 = 1 ∧ idxBimodal 2 0x7 = 1 ∧ idxChooser 8 0x12345678 = 0x9E ∧
    idxBimodal 12 0xDEADBEEF = 0xFBB ∧ idxChooser 30 0xFFFFFFFF = 0x3FFFFFFF ∧ idxBimodal 0 0xFFFFFFFF = 0 := by decide

/-- 95_test_vectors 2.3. -/
theorem test_gshare_indices :
    idxGshare 2 2 0x4 0 = 1 ∧ idxGshare 3 2 0x10 3 = 2 ∧ idxGshare 4 2 0x24 1 = 0xD ∧ idxGshare 4 2 0x24 2 = 1 ∧
    idxGshare 8 4 0x12345678 0xA = 0x3E ∧ idxGshare 12 5 0xDEADBEEF 0x13 = 0x63B ∧
    idxGshare 30 0 0xFFFFFFFF 0 = 0x3FFFFFFF ∧ idxGshare 30 30 0xFFFFFFFF 0x3FFFFFFF = 0 := by decide

/-- 95_test_vectors H1. -/
theorem test_history_shift :
    histShift 0 0 true = 0 ∧ histShift 1 1 false = 0 ∧ histShift 2 2 true = 3 ∧ histShift 4 10 true = 13 ∧
    histShift 4 5 true = 10 ∧ histShift 8 1 false = 0 ∧ histShift 8 1 true = 128 := by decide

/-- 95_test_vectors 2.8: which code, if any. -/
theorem test_config_check :
    configCheck (some .bimodal) 63 63 63 30 = .noError ∧ configCheck (some .bimodal) 0 0 0 31 = .indexWidth ∧
    configCheck (some .gshare) 0 30 30 0 = .noError ∧ configCheck (some .gshare) 0 31 40 0 = .histWidth ∧
    configCheck (some .gshare) 0 31 31 0 = .indexWidth ∧ configCheck (some .hybrid) 31 2 1 1 = .indexWidth ∧
    configCheck none 0 2 3 0 = .scheme := by decide

/-- 95_test_vectors 2.9. -/
theorem test_rate :
    mispredictionRate 0 0 = .noData ∧ mispredictionRate 1 0 = .percent 0 ∧ mispredictionRate 1 1 = .percent 100 ∧
    mispredictionRate 9 4 = .percent (mkRat 400 9) ∧ mispredictionRate 8 4 = .percent 50 := by decide

/-- The stored codes (10_state R16, R18; 60_exceptions R135; 30_encoding R63). -/
theorem test_codes :
    phaseCode .unconfigured = 0 ∧ phaseCode .ready = 1 ∧ phaseCode .error = 2 ∧ errCode .noError = 0 ∧
    errCode .scheme = 1 ∧ errCode .histWidth = 2 ∧ errCode .indexWidth = 3 ∧
    packEventResult false true = 0b10#2 := by decide

/-! ### One step of each instruction -/

/-- 95_test_vectors 2.10: a new run in READY; `002042041`. -/
theorem test_configure_accepts :
    nextWith (exec (.configure (some .hybrid) 1 2 1 1) { bim2 with npred := 5, mem := bim2.mem.write .bim 1 3 })
      (fun t => decide (contents t .cho = [1, 1] ∧ contents t .gsh = [2, 2, 2, 2] ∧ contents t .bim = [2, 2] ∧
        t.npred = 0 ∧ t.phase = .ready)) = true := by decide

/-- 95_test_vectors P4 step 0: `0010020C0`. -/
theorem test_configure_rejects :
    nextWith (exec (.configure (some .gshare) 0 2 3 0) bim2)
      (fun t => decide (t.phase = .error ∧ t.err = .histWidth ∧ t.mem = .empty ∧
        t.response = some (.rejected .histWidth))) = true := by decide

/-- Scenario 1 (S1). -/
theorem test_puBimodal_scenario1 :
    nextWith (exec (.puBimodal true 4) bim2)
      (fun t => decide (contents t .bim = [2, 3, 2, 2] ∧ t.npred = 1 ∧ t.nmisp = 0 ∧
        t.response = some (.event true true))) = true := by decide

/-- 95_test_vectors P1 step 9: `7 n` on `[2,2,1,2]`. -/
theorem test_puBimodal_alias :
    nextWith (exec (.puBimodal false 7) { bim2 with mem := bim2.mem.write .bim 2 1, npred := 8, nmisp := 3 })
      (fun t => decide (contents t .bim = [2, 1, 1, 2] ∧ t.npred = 9 ∧ t.nmisp = 4 ∧
        t.response = some (.event false true))) = true := by decide

/-- 95_test_vectors G1 row 2: the cell is the one of the history before the event. -/
theorem test_puGshare_history_before :
    nextWith (exec (.puGshare true 4) { gsh22 with ghr := 2, mem := gsh22.mem.write .gsh 1 3 })
      (fun t => decide (contents t .gsh = [2, 3, 2, 3] ∧ t.ghr = 3 ∧ t.response = some (.event true true))) = true := by
  decide

/-- 95_test_vectors P2 step 6: `3c n`, `M1 = 3`. -/
theorem test_puGshare_lower_bits_pass :
    nextWith (exec (.puGshare false 0x3C) { gsh22 with cfg := ⟨.gshare, 0, 3, 2, 0⟩, ghr := 3 })
      (fun t => decide (contents t .gsh = [2, 1, 2, 2, 2, 2, 2, 2] ∧ t.ghr = 1 ∧
        t.response = some (.event false true))) = true := by decide

/-- 95_test_vectors P3 step 2: the chooser flips while bimodal is the table trained. -/
theorem test_puHybrid_chooser_flips :
    nextWith (exec (.puHybrid true 8) { hyb1211 with mem := hyb1211.mem.write .bim 0 1 })
      (fun t => decide (contents t .cho = [2, 1] ∧ contents t .gsh = [2, 2, 2, 2] ∧ contents t .bim = [2, 2] ∧
        t.ghr = 1 ∧ t.response = some (.event false false))) = true := by decide

/-- 95_test_vectors P3 step 9: gshare selected and wrong, bimodal right: the chooser goes down. -/
theorem test_puHybrid_gshare_selected :
    nextWith (exec (.puHybrid true 8) { hyb1211 with
        mem := (((hyb1211.mem.write .cho 0 3).write .gsh 0 1).write .gsh 2 0).write .bim 1 3 })
      (fun t => decide (contents t .cho = [2, 1] ∧ contents t .gsh = [1, 2, 1, 2] ∧ contents t .bim = [2, 3] ∧
        t.ghr = 1 ∧ t.response = some (.event false false))) = true := by decide

/-- 95_test_vectors P3, the REPORT record. -/
theorem test_report_order :
    nextWith (exec .report { hyb1211 with
        npred := 10, nmisp := 7, ghr := 1, mem := (hyb1211.mem.write .gsh 2 1).write .bim 1 3 })
      (fun t => decide (t.response = some (.report ⟨.hybrid 1 2 1 1, 10, 7, .percent 70,
        [(.cho, [(0, 1), (1, 1)]), (.gsh, [(0, 2), (1, 2), (2, 1), (3, 2)]), (.bim, [(0, 2), (1, 3)])]⟩))) = true := by
  decide

/-- 95_test_vectors 2.10: REPORT in ERROR and in UNCONFIGURED. -/
theorem test_report_outside_ready :
    nextWith (exec .report errored) (fun t => decide (t.response = some (.errorReport .error .histWidth))) = true ∧
    refusedWith (exec .report State.reset) .reportUnconfigured = true := by decide

/-- 40_counter R73, at the last cell of the chooser. -/
theorem test_ctrHold :
    nextWith (exec (.ctrHold ⟨.cho, 1⟩ true) hyb1211) (fun t => decide (t = hyb1211)) = true := by decide

/-- 40_counter R72: saturation at 0. -/
theorem test_ctrDec_saturates :
    nextWith (exec (.ctrDec ⟨.bim, 3⟩) { bim2 with mem := bim2.mem.write .bim 3 0 })
      (fun t => decide (contents t .bim = [2, 2, 2, 0])) = true := by decide

/-- 40_counter R71: saturation at 3. -/
theorem test_ctrInc_saturates :
    nextWith (exec (.ctrInc ⟨.gsh, 2⟩) { gsh22 with mem := gsh22.mem.write .gsh 2 3 })
      (fun t => decide (contents t .gsh = [2, 2, 3, 2])) = true := by decide

/-- A step runs a table word placed for it, from power-on. -/
theorem test_step_runs_placed_word :
    nextWith (step (State.reset.withFetchWord 40 0x000000002))
      (fun t => decide (contents t .bim = [2, 2, 2, 2] ∧ t.phase = .ready ∧ t.input = [])) = true ∧
    refusedWith (step (State.reset.withFetchWord 40 0x300000004)) .eventOutsideReady = true := by decide

/-! ### Witnesses: states and operands that meet a statement's hypotheses -/

theorem witness_CtrIncSaturatesAtThree : bim2.hasCell ⟨.bim, 3⟩ = true := by decide

theorem witness_CtrDecSaturatesAtZero : gsh22.hasCell ⟨.gsh, 0⟩ = true := by decide

theorem witness_CtrHoldChangesNothing : hyb1211.hasCell ⟨.cho, 1⟩ = true ∧ hyb1211.mem.wf = true := by decide

theorem witness_DrivingAMissingCellFaults :
    bim2.hasCell ⟨.bim, 4⟩ = false ∧ bim2.hasCell ⟨.gsh, 0⟩ = false := by decide

theorem witness_CellsMoveByAtMostOne :
    (Instr.puHybrid true 8).isConfigure = false ∧
      exec (.puHybrid true 8) hyb1211 = .next (hybridEvent true 8 hyb1211) := ⟨rfl, rfl⟩

theorem witness_GshareIndexBits : (2 : Nat) ≤ 3 ∧ (0 : Nat) < 3 ∧ (1 : Nat) < 3 ∧ (2 : Nat) < 3 := by decide

theorem witness_GshareIndexFoldsTheWindow : (2 : Nat) ≤ 2 ∧ (3 : Nat) < 2 ^ 2 := by decide

theorem witness_GshareIndexCornerCases :
    (0xFFFFFFFF : Nat) < 2 ^ Config.AW ∧ (0x3FFFFFFF : Nat) < 2 ^ 30 ∧ 30 + 2 = Config.AW := by decide

theorem witness_IndicesStayInsideTheirTables : (30 : Nat) ≤ 30 := by decide

theorem witness_LowAddressBitsAreIgnored : (0x7 : Addr) >>> 2 = (0x4 : Addr) >>> 2 := by decide

theorem witness_HistoryShiftBits : (1 : Nat) ≤ 1 ∧ (1 : Nat) < 2 ^ 1 ∧ (0 : Nat) < 2 - 1 := by decide

theorem witness_BimodalEventTrainsOneCell :
    bim2.phase = .ready ∧ bim2.cfg.scheme = .bimodal ∧ errored.phase ≠ .ready := by decide

theorem witness_OneCellBimodalTableIsGlobal :
    let s := State.reset.construct ⟨.bimodal, 0, 0, 0, 0⟩
    s.phase = .ready ∧ s.cfg.scheme = .bimodal ∧ s.cfg.m2 = 0 := by decide

theorem witness_GshareEventTrainsAndShifts :
    gsh22.phase = .ready ∧ gsh22.cfg.scheme = .gshare ∧ gsh22.cfg.n.toNat ≤ gsh22.cfg.m1.toNat ∧
      State.reset.phase ≠ .ready := by decide

/-- Both selections: the chooser cell at 1 and at 2. -/
theorem witness_HybridEventSelectsTrainsAndJudges :
    hyb1211.phase = .ready ∧ hyb1211.cfg.scheme = .hybrid ∧ ¬ 2 ≤ (hyb1211.tblRead .cho 0).toNat ∧
      2 ≤ ((hyb1211.tblWrite .cho 0 2).tblRead .cho 0).toNat ∧ errored.phase ≠ .ready := by decide

theorem witness_HybridEventLeavesTheOtherTableAlone :
    exec (.puHybrid false 0) hyb1211 = .next (hybridEvent false 0 hyb1211) ∧
    ¬ 2 ≤ (hyb1211.tblRead .cho (choIndex 0 hyb1211)).toNat ∧
    exec (.puHybrid false 0) (hyb1211.tblWrite .cho 0 2) =
      .next (hybridEvent false 0 (hyb1211.tblWrite .cho 0 2)) ∧
    2 ≤ ((hyb1211.tblWrite .cho 0 2).tblRead .cho (choIndex 0 (hyb1211.tblWrite .cho 0 2))).toNat :=
  ⟨rfl, by decide, rfl, by decide⟩

/-- Both clauses: the sub-predictions agree at reset, and disagree where `BIM[0]` is 1. -/
theorem witness_ChooserMovesOnlyOnDisagreement :
    exec (.puHybrid true 0) hyb1211 = .next (hybridEvent true 0 hyb1211) ∧
    isTaken (hyb1211.tblRead .gsh (gshIndex 0 hyb1211)) = isTaken (hyb1211.tblRead .bim (bimIndex 0 hyb1211)) ∧
    exec (.puHybrid true 0) (hyb1211.tblWrite .bim 0 1) =
      .next (hybridEvent true 0 (hyb1211.tblWrite .bim 0 1)) ∧
    isTaken ((hyb1211.tblWrite .bim 0 1).tblRead .gsh (gshIndex 0 hyb1211)) ≠
      isTaken ((hyb1211.tblWrite .bim 0 1).tblRead .bim (bimIndex 0 hyb1211)) :=
  ⟨rfl, by decide, rfl, by decide⟩

theorem witness_EventsAndReportsRaiseNothing :
    (Instr.puBimodal true 4).isEvent = true ∧ exec (.puBimodal true 4) bim2 = .next (bimodalEvent true 4 bim2) ∧
      exec .report bim2 = .next (bim2.respond (.report (runReport bim2))) := ⟨rfl, rfl, rfl⟩

theorem witness_UnselectedOperationIsRefused :
    (Instr.puGshare true 4).mode? = some .gshare ∧ bim2.phase = .ready ∧ bim2.cfg.scheme ≠ .gshare := by decide

theorem witness_ConfigureConstructsOrRaises :
    configCheck (some .hybrid) 30 30 30 30 = .noError ∧ configCheck (some .bimodal) 0 0 0 0 = .noError ∧
      configCheck (some .gshare) 0 0 0 0 = .noError ∧ configCheck none 0 0 0 0 ≠ .noError := by decide

theorem witness_InvalidConfigureRaisesConfigError :
    configCheck none 0 0 0 0 ≠ .noError ∧ configCheck (some .gshare) 0 0 1 0 ≠ .noError ∧
      configCheck (some .bimodal) 0 0 0 31 ≠ .noError := by decide

theorem witness_ConfigureForgetsTheRun : configCheck (some .gshare) 0 2 2 0 = .noError := by decide

theorem witness_OnlyValidConfigureLeavesError :
    errored.phase = .error ∧
      exec (.configure (some .bimodal) 0 0 0 2) errored = .next (errored.construct ⟨.bimodal, 0, 0, 0, 2⟩) ∧
      exec (.configure none 0 0 0 0) errored = .next (errored.raiseConfigError .scheme) ∧
      exec .report errored = .next (errored.respond (.errorReport .error .histWidth)) := ⟨rfl, rfl, rfl, rfl⟩

theorem witness_OnlyConfigureWritesTheConfiguration :
    (Instr.puGshare true 4).isConfigure = false ∧
      exec (.puGshare true 4) gsh22 = .next (gshareEvent true 4 gsh22) := ⟨rfl, rfl⟩

theorem witness_WritersOfTotalsAndHistory :
    (Instr.puBimodal true 4).isEvent = true ∧ exec (.puBimodal true 4) bim2 = .next (bimodalEvent true 4 bim2) ∧
    (Instr.configure none 0 0 0 0).isConfigure = true ∧
      exec (.configure none 0 0 0 0) bim2 = .next (bim2.raiseConfigError .scheme) ∧
    Instr.report.isEvent = false ∧ Instr.report.isConfigure = false ∧
      exec .report bim2 = .next (bim2.respond (.report (runReport bim2))) := ⟨rfl, rfl, rfl, rfl, rfl, rfl, rfl⟩

theorem witness_UnconfiguredAcceptsConfigureOnly :
    State.reset.phase = .unconfigured ∧
      exec (.configure (some .bimodal) 0 0 0 2) State.reset = .next bim2 := ⟨rfl, rfl⟩

theorem witness_ReportReadsOutTheState :
    bim2.phase = .ready ∧ (TableId.bim, tablePairs bim2 .bim) ∈ (runReport bim2).tables ∧ 3 < bim2.size .bim := by decide

theorem witness_ReportOutsideReady : errored.phase = .error ∧ State.reset.phase = .unconfigured := by decide

theorem witness_ReportIsRepeatable :
    exec .report bim2 = .next (bim2.respond (.report (runReport bim2))) := rfl

theorem witness_RateIsExactOrNoData : (0 : Nat) < 9 ∧ (9 : Nat) ≤ 9 ∧ mispredictionRate 9 9 = .percent 100 := by decide

theorem witness_DecodeOfEncode :
    (Instr.puHybrid true 4).wf = true ∧ (Instr.puHybrid true 4).mode? = some .hybrid ∧
      (Instr.ctrInc ⟨.gsh, 2 ^ 30 - 1⟩).wf = true ∧ (Instr.ctrInc ⟨.gsh, 2 ^ 30 - 1⟩).mode? = none := by decide

theorem witness_EncodeOfDecode :
    decodeInput .gshare (.command 0x3FFFFFFFF#35) = some (.puGshare true 0xFFFFFFFF#32) := by decide

theorem witness_CommandFields :
    (0x3FFFFFFFF#35).toNat / 2 ^ 33 = 1 ∧ (0x003FFFFFF#35).toNat / 2 ^ 26 = 0 := by decide

theorem witness_StepRunsTheDecodedInstruction :
    (gsh22.setInput [.command 0x300000004#35]).input = [.command 0x300000004#35] ∧
      decodeInput gsh22.cfg.scheme (.command 0x300000004#35) = some (.puGshare true 4) ∧
      bim2.cfg.scheme = .bimodal ∧ decodeTableWord 40 0x300000004 = some (.puBimodal true 4) := by decide

theorem witness_IdleStepChangesNothing : bim2.input = [] := by decide

theorem witness_ResetPinUnconfigures : (bim2.setInput [.resetPin]).input = [.resetPin] := by decide

theorem witness_EventIsDispatchedByScheme :
    (hyb1211.setInput [.command (encodeEvent true 4)]).input = [.command (encodeEvent true 4)] ∧
      State.reset.phase ≠ .ready ∧ bim2.phase = .ready ∧ bim2.cfg.scheme = .bimodal ∧ gsh22.phase = .ready ∧
      gsh22.cfg.scheme = .gshare ∧ hyb1211.phase = .ready ∧ hyb1211.cfg.scheme = .hybrid := by decide

/-- One word for each clause, and one that is not refused. -/
theorem witness_RefusedCommandWords :
    refusedWith (step (bim2.setInput [.command 0x600000000#35])) (.reservedWord .cmdThree) = true ∧
    refusedWith (step (bim2.setInput [.command 0x004000000#35])) (.reservedWord .configureZ) = true ∧
    refusedWith (step (bim2.setInput [.command 0x400000001#35])) (.reservedWord .reportPayload) = true ∧
    refusedWith (step (errored.setInput [.command 0x2FFFFFFFF#35])) .eventOutsideReady = true ∧
    refusedWith (step (State.reset.setInput [.command 0x400000000#35])) .reportUnconfigured = true ∧
    nextWith (step (bim2.setInput [.command 0x2FFFFFFFF#35])) (fun t => decide (t.npred = 1)) = true := by decide

theorem witness_PhaseTransitions :
    (State.reset.setInput [encode (.configure none 0 0 0 0)]).input = [encode (.configure none 0 0 0 0)] ∧
    (bim2.setInput [.command (encodeEvent false 0)]).input = [.command (encodeEvent false 0)] ∧
      bim2.phase = .ready ∧ State.reset.phase ≠ .ready ∧
    (errored.setInput [encode .report]).input = [encode .report] ∧ errored.phase ≠ .unconfigured := by decide

/-- A constructed engine meets the invariant, and a step goes on from it. -/
theorem witness_StepKeepsTheInvariant :
    bim2.Inv ∧ step (bim2.setInput [.command 0x300000004#35]) = .next (bimodalEvent true 4 bim2) :=
  ⟨⟨by decide, fun t => by cases t <;> decide, by decide, by decide, by decide, by decide, by decide⟩, rfl⟩

theorem witness_TraceIsAFoldOfEvents :
    bim2.phase = .ready ∧ (bim2.setInput ([(true, 4)].map eventInput ++ [])).input = [(true, 4)].map eventInput ++ [] := by
  decide

theorem witness_TotalsCountTheTrace :
    hyb1211.phase = .ready ∧
      (hyb1211.setInput ([(false, 8)].map eventInput ++ [.resetPin])).input =
        [(false, 8)].map eventInput ++ [.resetPin] := by decide

theorem witness_HistoryHoldsTheLastOutcomes :
    gsh22.phase = .ready ∧ gsh22.cfg.scheme ≠ .bimodal ∧ gsh22.ghr < 2 ^ gsh22.cfg.n.toNat ∧ gsh22.ghr = 0 ∧
      (gsh22.setInput ([(true, 4)].map eventInput ++ [])).input = [(true, 4)].map eventInput ++ [] ∧
      0 < [(true, (4 : Addr))].length ∧ [(true, (4 : Addr))].length ≤ 1 ∧ 1 < gsh22.cfg.n.toNat := by decide

theorem witness_HistoryFillsAndEmpties :
    hyb1211.phase = .ready ∧ hyb1211.cfg.scheme ≠ .bimodal ∧ hyb1211.ghr < 2 ^ hyb1211.cfg.n.toNat ∧
      [(true, (4 : Addr))].length = hyb1211.cfg.n.toNat ∧ (∀ e ∈ [(true, (4 : Addr))], e.1 = true) ∧
      (∀ e ∈ [(false, (4 : Addr))], e.1 = false) ∧
      (hyb1211.setInput ([(true, 4)].map eventInput ++ [])).input = [(true, 4)].map eventInput ++ [] :=
  ⟨rfl, by decide, by decide, rfl, by simp, by simp, rfl⟩

theorem witness_HybridHistoryIsGshareHistory :
    let h := hyb1211.setInput ([(true, 4)].map eventInput ++ [])
    let g := (State.reset.construct ⟨.gshare, 0, 2, 1, 0⟩).setInput ([(true, 8)].map eventInput ++ [])
    h.phase = .ready ∧ g.phase = .ready ∧ h.cfg.scheme = .hybrid ∧ g.cfg.scheme = .gshare ∧ h.cfg.n = g.cfg.n ∧
      h.ghr = g.ghr ∧ [(true, (4 : Addr))].map Prod.fst = [(true, (8 : Addr))].map Prod.fst ∧
      h.input = [(true, 4)].map eventInput ++ [] ∧ g.input = [(true, 8)].map eventInput ++ [] := by decide

theorem witness_GshareWithoutHistoryIsBimodal :
    let b := (State.reset.construct ⟨.bimodal, 0, 0, 0, 0⟩).setInput ([(true, 4)].map eventInput ++ [])
    let g := (State.reset.construct ⟨.gshare, 0, 0, 0, 0⟩).setInput ([(true, 4)].map eventInput ++ [])
    b.phase = .ready ∧ g.phase = .ready ∧ b.cfg.scheme = .bimodal ∧ g.cfg.scheme = .gshare ∧ g.cfg.n = 0 ∧
      g.cfg.m1 = b.cfg.m2 ∧ g.ghr = 0 ∧ (∀ i, g.tblRead .gsh i = b.tblRead .bim i) ∧ g.npred = b.npred ∧
      g.nmisp = b.nmisp ∧ g.response = b.response ∧ b.input = [(true, 4)].map eventInput ++ [] ∧
      g.input = [(true, 4)].map eventInput ++ [] ∧ g.cfg.m1 = 0 :=
  ⟨rfl, rfl, rfl, rfl, rfl, rfl, rfl, fun _ => rfl, rfl, rfl, rfl, rfl, rfl, rfl⟩

theorem witness_ReplayIsDeterministic :
    let c := encode (.configure (some .hybrid) 1 2 1 1)
    configCheck (some .hybrid) 1 2 1 1 = .noError ∧
      (State.reset.setInput (c :: ([(true, 4)].map eventInput ++ []))).input = c :: ([(true, 4)].map eventInput ++ []) ∧
      (bim2.setInput (c :: ([(true, 4)].map eventInput ++ [.resetPin]))).input =
        c :: ([(true, 4)].map eventInput ++ [.resetPin]) := by decide

end Sys2Proof.Tests
end

section
/-! The command words of CONFIGURE and EVENT decode to their operands (30_encoding R52, R54). -/

namespace Sys2Proof

/-- A field of a word is found by its number. -/
theorem extractLsb'_eq_of_toNat {w lo len : Nat} {x : BitVec w} {y : BitVec len}
    (h : x.toNat / 2 ^ lo % 2 ^ len = y.toNat) : x.extractLsb' lo len = y :=
  BitVec.eq_of_toNat_eq ((toNat_extract x lo len).trans h)

/-- The seven fields of a format-CF word: `cmd` and `z` are 0, the others the operands (30_encoding R54). -/
theorem encodeConfigure_fields (sch : Option Scheme) (k m1 n m2 : Exponent) :
    (encodeConfigure sch k m1 n m2).extractLsb' 33 2 = 0 ∧
    (encodeConfigure sch k m1 n m2).extractLsb' 26 7 = 0 ∧
    (encodeConfigure sch k m1 n m2).extractLsb' 24 2 = codeOfScheme sch ∧
    (encodeConfigure sch k m1 n m2).extractLsb' 18 6 = k ∧
    (encodeConfigure sch k m1 n m2).extractLsb' 12 6 = m1 ∧
    (encodeConfigure sch k m1 n m2).extractLsb' 6 6 = n ∧
    (encodeConfigure sch k m1 n m2).extractLsb' 0 6 = m2 := by
  have hs := (codeOfScheme sch).isLt
  have hk := k.isLt
  have hm1 := m1.isLt
  have hn := n.isLt
  have hm2 := m2.isLt
  have hw := encodeConfigure_toNat sch k m1 n m2
  refine ⟨?_, ?_, ?_, ?_, ?_, ?_, ?_⟩
  all_goals
    apply extractLsb'_eq_of_toNat
    rw [hw]
    bv_omega

@[simp] theorem decodeCommand_encodeConfigure (sch : Option Scheme) (k m1 n m2 : Exponent) :
    decodeCommand (encodeConfigure sch k m1 n m2) = .ok (.configure sch k m1 n m2) := by
  obtain ⟨hcmd, hz, hs, hk, hm1, hn, hm2⟩ := encodeConfigure_fields sch k m1 n m2
  rw [decodeCommand, if_pos hcmd, if_pos hz, hs, hk, hm1, hn, hm2, schemeOfCode_codeOfScheme]

/-- The three fields of a format-EV word: `cmd` is 1, the others the operands (30_encoding R52). -/
theorem encodeEvent_fields (taken : Bool) (a : Addr) :
    (encodeEvent taken a).extractLsb' 33 2 = 1 ∧ (encodeEvent taken a).getLsbD 32 = taken ∧
    (encodeEvent taken a).extractLsb' 0 32 = a := by
  have ha := a.isLt
  refine ⟨?_, ?_, ?_⟩
  · apply extractLsb'_eq_of_toNat
    rw [encodeEvent_toNat]
    split <;> bv_omega
  · simp only [encodeEvent, BitVec.getLsbD_append]
    simp
  · apply extractLsb'_eq_of_toNat
    rw [encodeEvent_toNat]
    split <;> omega

@[simp] theorem decodeCommand_encodeEvent (taken : Bool) (a : Addr) :
    decodeCommand (encodeEvent taken a) = .ok (.event taken a) := by
  obtain ⟨hcmd, ho, ha⟩ := encodeEvent_fields taken a
  rw [decodeCommand, hcmd, ho, ha]
  rfl

end Sys2Proof
end

section
/-! An event as a state function: what it leaves unchanged, and that it does not look at the driver's side of the state. -/

namespace Sys2Proof.Machine

variable (s : State) (e : Bool × Addr)

/-- Only the tables, the history, the totals and the result may change over an event. -/
theorem eventStep_frame :
    eventStep s e = { s with
      mem := (eventStep s e).mem, ghr := (eventStep s e).ghr, npred := (eventStep s e).npred
      nmisp := (eventStep s e).nmisp, response := (eventStep s e).response } := by
  unfold eventStep
  split
  case h_1 => rfl
  case h_2 => rfl
  case h_3 => exact hybridEvent_frame e.1 e.2

@[simp] theorem eventStep_phase : (eventStep s e).phase = s.phase := by rw [eventStep_frame]
@[simp] theorem eventStep_err : (eventStep s e).err = s.err := by rw [eventStep_frame]
@[simp] theorem eventStep_cfg : (eventStep s e).cfg = s.cfg := by rw [eventStep_frame]
@[simp] theorem eventStep_input : (eventStep s e).input = s.input := by rw [eventStep_frame]
@[simp] theorem eventStep_draws : (eventStep s e).draws = s.draws := by rw [eventStep_frame]

/-- The driver's side of the state replaced: the inputs still to come and the counter of free values. -/
def State.withDriver (s : State) (l : List Input) (d : Nat) : State := { s with input := l, draws := d }

variable (l : List Input) (d : Nat)

theorem setInput_eq_withDriver : s.setInput l = s.withDriver l s.draws := rfl

@[simp] theorem tblRead_withDriver (u : TableId) (i : Nat) : (s.withDriver l d).tblRead u i = s.tblRead u i := rfl
@[simp] theorem bimIndex_withDriver (a : Addr) : bimIndex a (s.withDriver l d) = bimIndex a s := rfl
@[simp] theorem gshIndex_withDriver (a : Addr) : gshIndex a (s.withDriver l d) = gshIndex a s := rfl
@[simp] theorem choIndex_withDriver (a : Addr) : choIndex a (s.withDriver l d) = choIndex a s := rfl

@[simp] theorem tblWrite_withDriver (u : TableId) (i : Nat) (v : Counter) :
    (s.withDriver l d).tblWrite u i v = (s.tblWrite u i v).withDriver l d := rfl

theorem trainSelected_withDriver (taken : Bool) (a : Addr) :
    trainSelected taken a (s.withDriver l d) = (trainSelected taken a s).withDriver l d := by
  cases h : selGshare (s.tblRead .cho (choIndex a s)) with
  | true => simp [trainSelected, h]
  | false => simp [trainSelected, h]

theorem hybridEvent_withDriver (taken : Bool) (a : Addr) :
    hybridEvent taken a (s.withDriver l d) = (hybridEvent taken a s).withDriver l d := by
  rw [hybridEvent, trainSelected_withDriver]
  rfl

/-- An event reads nothing of the driver's side and passes it on: its results are a function of the engine's own
state alone (00_scope R8). -/
theorem eventStep_withDriver : eventStep (s.withDriver l d) e = (eventStep s e).withDriver l d := by
  have hcfg : (s.withDriver l d).cfg = s.cfg := rfl
  unfold eventStep
  rw [hcfg]
  cases s.cfg.scheme with
  | bimodal => rfl
  | gshare => rfl
  | hybrid => exact hybridEvent_withDriver s l d e.1 e.2

theorem eventStep_setInput : eventStep (s.setInput l) e = (eventStep s e).setInput l := by
  rw [setInput_eq_withDriver, eventStep_withDriver, setInput_eq_withDriver, eventStep_draws]

/-- A whole trace reads nothing of the driver's side. -/
theorem foldl_eventStep_withDriver (evs : List (Bool × Addr)) :
    evs.foldl eventStep (s.withDriver l d) = (evs.foldl eventStep s).withDriver l d :=
  List.foldl_hom (fun t => t.withDriver l d) (fun t e => eventStep_withDriver t e l d)

/-- Construction reads nothing of the engine: two predictors of one configuration differ at most in the driver's side
(10_state R21). -/
theorem construct_eq_withDriver (s' : State) (c : Cfg) :
    s'.construct c = (s.construct c).withDriver s'.input s'.draws := rfl

end Sys2Proof.Machine
end

section
/-! Runs of command words: a trace in READY, and a trace after a valid CONFIGURE. -/

namespace Sys2Proof.Machine

variable {s : State} {rest : List Input}

/-- In READY an EVENT is performed under the stored scheme (45_system R122). -/
theorem exec_eventInstr (h : s.phase = .ready) (e : Bool × Addr) :
    exec (eventInstr s.cfg.scheme e.1 e.2) s = .next (eventStep s e) := by
  unfold eventStep
  cases hs : s.cfg.scheme with
  | bimodal => exact performEvent_eq_next.2 ⟨h, hs, rfl⟩
  | gshare => exact performEvent_eq_next.2 ⟨h, hs, rfl⟩
  | hybrid => exact performEvent_eq_next.2 ⟨h, hs, rfl⟩

/-- A presented EVENT word in READY. -/
theorem step_event {e : Bool × Addr} (h : s.phase = .ready) (hin : s.input = eventInput e :: rest) :
    step s = .next (eventStep (s.setInput rest) e) := by
  have hready : (s.setInput rest).phase = .ready := h
  rw [step_cons hin, ← exec_eventInstr hready]
  simp only [performInput, eventInput, decodeCommand_encodeEvent, performCommand, if_pos hready]

/-- A presented CONFIGURE word with a valid configuration constructs (45_system R121). -/
theorem step_configure {sc : Scheme} {k m1 n m2 : Exponent} (hv : configCheck (some sc) k m1 n m2 = .noError)
    (hin : s.input = encode (.configure (some sc) k m1 n m2) :: rest) :
    step s = .next ((s.setInput rest).construct ⟨sc, k, m1, n, m2⟩) := by
  rw [step_cons hin]
  simp only [performInput, encode, decodeCommand_encodeConfigure, performCommand, exec, execConfigure, hv]

/-- A trace presented in READY runs to its end and folds its events over the state (70_reset R158). -/
theorem runSteps_events (evs : List (Bool × Addr)) (h : s.phase = .ready)
    (hin : s.input = evs.map eventInput ++ rest) :
    runSteps evs.length s = .next (evs.foldl eventStep (s.setInput rest)) := by
  induction evs generalizing s with
  | nil => rw [← (show s.input = rest from hin)]; rfl
  | cons e evs ih =>
    rw [List.length_cons, runSteps_succ _ (step_event h hin), ih (by simpa using h) (by simp),
      ← eventStep_setInput]
    rfl

/-- A valid CONFIGURE and a trace run to their end from every state: the events folded over the new predictor. -/
theorem runSteps_configure_events {sc : Scheme} {k m1 n m2 : Exponent} (evs : List (Bool × Addr))
    (hv : configCheck (some sc) k m1 n m2 = .noError)
    (hin : s.input = encode (.configure (some sc) k m1 n m2) :: (evs.map eventInput ++ rest)) :
    runSteps (evs.length + 1) s =
      .next (evs.foldl eventStep ((s.setInput rest).construct ⟨sc, k, m1, n, m2⟩)) := by
  rw [runSteps_succ _ (step_configure hv hin), runSteps_events evs rfl rfl]
  rfl

/-- Settles O55: each run is the fold of the events over a new predictor; the two predictors differ in the driver's side
alone, and no event reads that side. -/
theorem replayIsDeterministic : Obligations.ReplayIsDeterministic := by
  intro sc k m1 n m2 evs s₁ s₂ rest₁ rest₂ hv h₁ h₂
  refine ⟨_, _, runSteps_configure_events evs hv h₁, runSteps_configure_events evs hv h₂, ?_⟩
  rw [construct_eq_withDriver (s₁.setInput rest₁) (s₂.setInput rest₂), foldl_eventStep_withDriver]
  rfl

end Sys2Proof.Machine
end

section
/-! Addresses equal above bit 1 are one event: they select the same cells, and an event uses its address for nothing else
(20_memory R32). -/

namespace Sys2Proof.Machine

/-- What every index is formed from, as a number. -/
theorem toNat_shiftRight_two_eq {a b : Addr} (h : a >>> 2 = b >>> 2) : a.toNat >>> 2 = b.toNat >>> 2 := by
  simpa only [BitVec.toNat_ushiftRight] using congrArg BitVec.toNat h

variable {a b : Addr} (h : a >>> 2 = b >>> 2) (taken : Bool) (s : State)
include h

theorem bimIndex_congr : bimIndex a s = bimIndex b s :=
  congrArg (· &&& mask s.cfg.m2.toNat) (toNat_shiftRight_two_eq h)

theorem choIndex_congr : choIndex a s = choIndex b s :=
  congrArg (· &&& mask s.cfg.k.toNat) (toNat_shiftRight_two_eq h)

theorem gshIndex_congr : gshIndex a s = gshIndex b s :=
  idxGshare_congr (toNat_shiftRight_two_eq h) _ _ _

theorem bimodalEvent_congr : bimodalEvent taken a s = bimodalEvent taken b s := by
  simp only [bimodalEvent, bimIndex_congr h]

theorem gshareEvent_congr : gshareEvent taken a s = gshareEvent taken b s := by
  simp only [gshareEvent, gshIndex_congr h]

/-- The prediction, both trainings and the chooser update all find their cells by the three indices. -/
theorem hybridEvent_congr : hybridEvent taken a s = hybridEvent taken b s := by
  simp only [hybridEvent, hybridPrediction, trainSelected, nextChooser, bimIndex_congr h, gshIndex_congr h,
    choIndex_congr h]

end Sys2Proof.Machine
end

section
/-! The low address bits under exec. -/

namespace Sys2Proof.Machine

/-- Settles O13: each PU operation performs its event's state function, and the two addresses give the same one. -/
theorem lowAddressBitsAreIgnored : Obligations.LowAddressBitsAreIgnored := by
  intro taken a b s h
  exact ⟨congrArg (performEvent .bimodal s) (bimodalEvent_congr h taken s),
    congrArg (performEvent .gshare s) (gshareEvent_congr h taken s),
    congrArg (performEvent .hybrid s) (hybridEvent_congr h taken s)⟩

end Sys2Proof.Machine
end

section
/-! One cell driven with a micro-operation: what the drive sets and what it leaves unchanged (40_counter R71 to R73). -/

namespace Sys2Proof.Machine

variable (s : State)

@[simp] theorem tblRead_tblWrite_same (u : TableId) (i : Nat) (v : Counter) :
    (s.tblWrite u i v).tblRead u i = v := read_write_same

theorem tblRead_tblWrite_other {tb u : TableId} {i j : Nat} (v : Counter) (h : u ≠ tb ∨ j ≠ i) :
    (s.tblWrite tb i v).tblRead u j = s.tblRead u j := read_write_other h

/-- Writing back what a cell holds leaves every cell as it was, whatever the form of the memory. -/
theorem tblRead_tblWrite_self (tb u : TableId) (i j : Nat) :
    (s.tblWrite tb i (s.tblRead tb i)).tblRead u j = s.tblRead u j := by
  rw [tblRead_tblWrite]
  split
  case isTrue h => rw [h.1, h.2]
  case isFalse => rfl

/-- In a canonical memory it leaves the state as it was. -/
theorem tblWrite_tblRead_self {s : State} (h : s.mem.wf = true) (u : TableId) (i : Nat) :
    s.tblWrite u i (s.tblRead u i) = s :=
  congrArg (fun m => { s with mem := m }) (write_read_self h)

/-- The state after a drive. -/
def State.driven (op : MicroOp) (c : CellRef) : State :=
  s.tblWrite c.table c.index (applyMicroOp op (s.tblRead c.table c.index))

variable (op : MicroOp) (c : CellRef)

theorem driven_frame : s.driven op c = { s with mem := (s.driven op c).mem } := rfl

@[simp] theorem tblRead_driven_same :
    (s.driven op c).tblRead c.table c.index = applyMicroOp op (s.tblRead c.table c.index) :=
  tblRead_tblWrite_same s _ _ _

theorem tblRead_driven_other {u : TableId} {j : Nat} (h : u ≠ c.table ∨ j ≠ c.index) :
    (s.driven op c).tblRead u j = s.tblRead u j := tblRead_tblWrite_other s _ h

@[simp] theorem tblRead_driven_hold (u : TableId) (j : Nat) : (s.driven .hold c).tblRead u j = s.tblRead u j :=
  tblRead_tblWrite_self s _ _ _ _

theorem driven_hold {s : State} (h : s.mem.wf = true) : s.driven .hold c = s := tblWrite_tblRead_self h _ _

variable {s c} (h : s.hasCell c = true)
include h

theorem driveCell_of_hasCell : driveCell op c s = .next (s.driven op c) := driveCell_eq_next.2 ⟨h, rfl⟩

theorem exec_ctrInc : exec (.ctrInc c) s = .next (s.driven .inc c) := driveCell_of_hasCell .inc h

theorem exec_ctrDec : exec (.ctrDec c) s = .next (s.driven .dec c) := driveCell_of_hasCell .dec h

theorem exec_ctrHold (up : Bool) : exec (.ctrHold c up) s = .next (s.driven .hold c) := driveCell_of_hasCell .hold h

end Sys2Proof.Machine
end

section
/-! The three micro-operations under exec, with their control words (30_encoding R57). -/

namespace Sys2Proof

/-- The control word is `{en, up}`, `up` in the low bit. -/
theorem encodeControl_bits :
    ∀ en up : Bool, (encodeControl en up).getLsbD 1 = en ∧ (encodeControl en up).getLsbD 0 = up := by decide

end Sys2Proof

namespace Sys2Proof.Machine

/-- Settles O1: the drive applies `inc` to the cell and rewrites that cell alone. -/
theorem ctrIncSaturatesAtThree : Obligations.CtrIncSaturatesAtThree := by
  intro cell s h
  refine ⟨rfl, s.driven .inc cell, exec_ctrInc h, driven_frame s .inc cell, ?_,
    fun u j hj => tblRead_driven_other s .inc cell hj⟩
  rw [tblRead_driven_same, apply_inc, inc_toNat]

/-- Settles O2: the drive applies `dec` to the cell and rewrites that cell alone; subtraction on naturals stops at 0 as
the maximum does on integers. -/
theorem ctrDecSaturatesAtZero : Obligations.CtrDecSaturatesAtZero := by
  intro cell s h
  refine ⟨rfl, s.driven .dec cell, exec_ctrDec h, driven_frame s .dec cell, ?_,
    fun u j hj => tblRead_driven_other s .dec cell hj⟩
  rw [tblRead_driven_same, apply_dec, dec_toNat]
  omega

/-- Settles O3: the drive writes back what the cell holds. -/
theorem ctrHoldChangesNothing : Obligations.CtrHoldChangesNothing := by
  intro cell up s h
  obtain ⟨hen, hup⟩ := encodeControl_bits false up
  exact ⟨⟨encodeControl false up, rfl, hen, hup⟩, s.driven .hold cell, exec_ctrHold h up,
    driven_frame s .hold cell, tblRead_driven_hold s cell, driven_hold cell⟩

end Sys2Proof.Machine
end

section
/-! The three indices: the address window, the history folded into its upper part, and their bounds (41_index R80 to R85). -/

namespace Sys2Proof.Machine

/-- The direct index bit by bit. -/
theorem testBit_idxBimodal (m2 a j : Nat) :
    (idxBimodal m2 a).testBit j = (decide (j < m2) && a.testBit (j + 2)) := by
  rw [idxBimodal_eq_slice, testBit_slice, Nat.add_comm]

theorem idxBimodal_lt (m2 a : Nat) : idxBimodal m2 a < 2 ^ m2 := idxBimodal_eq_slice m2 a ▸ slice_lt _ _ _

variable {m1 n : Nat} (hn : n ≤ m1) (a h : Nat)
include hn

/-- The one-line form for every history value: the window of `m1` address bits, with the low `n` history bits folded into
its upper part. Below bit `m1 - n` both sides read `pc_lower`, from there on `folded`. -/
theorem idxGshare_eq_slice_xor : idxGshare m1 n a h = slice a 2 m1 ^^^ ((h % 2 ^ n) <<< (m1 - n)) := by
  refine Nat.eq_of_testBit_eq fun j => ?_
  rw [idxGshare, pcLower_eq_slice, folded, pcUpperN_eq_slice, and_mask]
  simp only [Nat.testBit_or, Nat.testBit_xor, Nat.testBit_shiftLeft, testBit_slice, Nat.testBit_mod_two_pow]
  rcases Nat.lt_or_ge j (m1 - n) with hlow | hhigh
  · have hwindow : j < m1 := by omega
    simp [hlow, Nat.not_le.2 hlow, hwindow]
  · have haddr : m1 - n + 2 + (j - (m1 - n)) = 2 + j := by omega
    have hwindow : j - (m1 - n) < n ↔ j < m1 := by omega
    simp [hhigh, Nat.not_lt.2 hhigh, haddr, hwindow, Bool.and_xor_distrib_left]

/-- The folded history does not leave the window. -/
theorem idxGshare_lt : idxGshare m1 n a h < 2 ^ m1 := by
  have hfold : (h % 2 ^ n) <<< (m1 - n) < 2 ^ (n + (m1 - n)) := Nat.shiftLeft_lt (Nat.mod_lt _ (Nat.two_pow_pos n))
  rw [Nat.add_sub_cancel' hn] at hfold
  rw [idxGshare_eq_slice_xor hn]
  exact Nat.xor_lt_two_pow (slice_lt a 2 m1) hfold

end Sys2Proof.Machine
end

section
/-! The statements about the indices. -/

namespace Sys2Proof.Machine

/-- Settles O8: both direct indices are the same slice of the address, read bit by bit. -/
theorem directIndexIsAddressField : Obligations.DirectIndexIsAddressField := by
  intro w a j
  have hbits : (idxBimodal w.toNat a.toNat).testBit j = (decide (j < w.toNat) && a.getLsbD (j + 2)) := by
    rw [testBit_idxBimodal, BitVec.testBit_toNat]
  exact ⟨rfl, rfl, hbits, hbits⟩

/-- Settles O10: the four-term formula is the definition; in the one-line form a history below `2 ^ n` is its own low
`n` bits. -/
theorem gshareIndexFoldsTheWindow : Obligations.GshareIndexFoldsTheWindow := by
  intro m1 n a h hn
  refine ⟨rfl, fun hh => ?_⟩
  rw [idxGshare_eq_slice_xor hn, Nat.mod_eq_of_lt hh, slice]

/-- Settles O12: a slice is below its width's power, and the folded history keeps it there. -/
theorem indicesStayInsideTheirTables : Obligations.IndicesStayInsideTheirTables := by
  intro m1 m2 k n a h hn
  exact ⟨idxBimodal_lt m2 a, idxBimodal_lt k a, idxGshare_lt hn a h⟩

end Sys2Proof.Machine
end

section
/-! Events: where they are refused, how they end, and which state exists while they run. -/

namespace Sys2Proof.Machine

variable {s s' : State} {sch : Scheme} {u : TableId}

/-- Outside READY an EVENT is refused (60_exceptions R143). -/
theorem performEvent_of_notReady (h : s.phase ≠ .ready) :
    performEvent sch s s' = .refused .eventOutsideReady := if_neg h

/-- How every event ends: the totals and the two results, in the words of 45_system R124 and 30_encoding R63. -/
theorem finishEvent_eq (predTaken outcome : Bool) :
    s.finishEvent predTaken outcome = { s with
      npred := s.npred + 1, nmisp := s.nmisp + (if predTaken = outcome then 0 else 1)
      response := some (.event (predTaken == outcome) predTaken) } := by
  simp [State.finishEvent, State.count, State.respond, correctFlag]

/-- A table the scheme does not own does not exist (10_state R19). -/
theorem size_notOwned (h : schemeOwns s.cfg.scheme u = false) : s.size u = 0 := by
  simp [State.size, State.owns, h]

theorem ghrWidth_notOwned (h : schemeOwns s.cfg.scheme .gsh = false) : s.ghrWidth = 0 := by
  simp [State.ghrWidth, State.owns, h]

/-- The bimodal index of an event selects a cell that exists. -/
theorem bimIndex_lt_size (a : Addr) (hr : s.phase = .ready) (ho : schemeOwns s.cfg.scheme .bim = true) :
    bimIndex a s < s.size .bim := by
  rw [size_ready hr ho]
  exact idxBimodal_lt _ _

end Sys2Proof.Machine
end

section
/-! A bimodal event: its end, its one trained cell and the cells it leaves (42_bimodal R90). -/

namespace Sys2Proof.Machine

variable (taken : Bool) (a : Addr) (s : State)

theorem bimodalEvent_eq :
    bimodalEvent taken a s = { s with
      mem := (bimodalEvent taken a s).mem, npred := s.npred + 1
      nmisp := s.nmisp + (if isTaken (s.tblRead .bim (bimIndex a s)) = taken then 0 else 1)
      response := some (.event (isTaken (s.tblRead .bim (bimIndex a s)) == taken)
        (isTaken (s.tblRead .bim (bimIndex a s)))) } :=
  finishEvent_eq _ _

/-- The indexed cell is trained by the outcome, from the value it held before the event. -/
@[simp] theorem tblRead_bimodalEvent_same :
    (bimodalEvent taken a s).tblRead .bim (bimIndex a s) = upd (s.tblRead .bim (bimIndex a s)) taken :=
  tblRead_tblWrite_same s _ _ _

theorem tblRead_bimodalEvent_other {u : TableId} {j : Nat} (h : u ≠ .bim ∨ j ≠ bimIndex a s) :
    (bimodalEvent taken a s).tblRead u j = s.tblRead u j := tblRead_tblWrite_other s _ h

variable {s}

theorem exec_puBimodal (hr : s.phase = .ready) (hs : s.cfg.scheme = .bimodal) :
    exec (.puBimodal taken a) s = .next (bimodalEvent taken a s) := performEvent_eq_next.2 ⟨hr, hs, rfl⟩

/-- With no index bits every address selects cell 0. -/
theorem idxBimodal_zero (n : Nat) : idxBimodal 0 n = 0 := Nat.lt_one_iff.1 (idxBimodal_lt 0 n)

end Sys2Proof.Machine
end

section
/-! The statements about PU.BIMODAL. -/

namespace Sys2Proof.Machine

/-- Settles O15: in READY the next state is `bimodalEvent`, which trains the indexed cell alone; the scheme owns `BIM`,
which holds that cell, and neither `GSH` nor `CHO`. -/
theorem bimodalEventTrainsOneCell : Obligations.BimodalEventTrainsOneCell := by
  intro taken a s
  refine ⟨rfl, performEvent_of_notReady, fun hr hs => ?_⟩
  have howns (u : TableId) : schemeOwns s.cfg.scheme u = schemeOwns .bimodal u := by rw [hs]
  refine ⟨bimodalEvent taken a s, exec_puBimodal taken a hr hs, bimodalEvent_eq taken a s,
    bimIndex_lt_size a hr (howns .bim), ?trained, ?near, fun u j => tblRead_bimodalEvent_other taken a s,
    size_notOwned (howns .gsh), size_notOwned (howns .cho), ghrWidth_notOwned (howns .gsh)⟩
  case trained => exact (congrArg BitVec.toNat (tblRead_bimodalEvent_same taken a s)).trans (upd_toNat _ taken)
  case near => exact (tblRead_bimodalEvent_same taken a s).symm ▸ withinOne_apply _ _

/-- Settles O16: the one cell is cell 0, which every address selects, and O15 says what an event does to the cell it
selects. -/
theorem oneCellBimodalTableIsGlobal : Obligations.OneCellBimodalTableIsGlobal := by
  intro taken a s hr hs hm
  have hsize : s.size .bim = 1 := by
    rw [size_ready hr (by rw [hs]; rfl), tableExponent, hm]
    rfl
  have hindex : idxBimodal s.cfg.m2.toNat a.toNat = 0 := by
    rw [hm]
    exact idxBimodal_zero _
  obtain ⟨-, -, hready⟩ := bimodalEventTrainsOneCell taken a s
  obtain ⟨t, hnext, hend, -, htrained, -⟩ := hready hr hs
  rw [hindex] at hend htrained
  exact ⟨hsize, t, hnext, htrained, _, congrArg State.response hend⟩

end Sys2Proof.Machine
end

section
/-! The history register: one shift of `hist_shift` bit by bit (43_gshare R95). -/

namespace Sys2Proof.Machine

/-- Every position takes the bit above it, the top one the outcome as well; nothing is set from position `n` on. -/
theorem testBit_histShift (n h : Nat) (o : Bool) (j : Nat) :
    (histShift n h o).testBit j = (decide (j < n) && (h.testBit (j + 1) || (o && decide (j = n - 1)))) := by
  rcases Nat.eq_zero_or_pos n with rfl | hn
  · simp
  · have hinserted : (if o then 2 ^ (n - 1) else 0).testBit j = (o && decide (j = n - 1)) := by
      cases o <;> simp [Nat.testBit_two_pow, eq_comm]
    rw [histShift, if_neg hn.ne', and_mask, Nat.testBit_mod_two_pow, Nat.testBit_or, hinserted,
      Nat.testBit_shiftRight, Nat.add_comm 1 j]

/-- A history below `2 ^ n` has nothing to shift into the top position, which therefore holds the outcome. -/
theorem testBit_histShift_top {n h : Nat} (hn : 1 ≤ n) (hh : h < 2 ^ n) (o : Bool) :
    (histShift n h o).testBit (n - 1) = o := by
  have habove : h.testBit (n - 1 + 1) = false := by rw [Nat.sub_add_cancel hn, Nat.testBit_lt_two_pow hh]
  simp [testBit_histShift, habove, Nat.sub_one_lt_of_lt hn]

/-- Below the top position the outcome is not seen. -/
theorem testBit_histShift_of_lt {n j : Nat} (hj : j < n - 1) (h : Nat) (o : Bool) :
    (histShift n h o).testBit j = h.testBit (j + 1) := by
  simp [testBit_histShift, hj.ne, Nat.lt_of_lt_pred hj]

/-- Settles O14: the top position takes the outcome, the others the bit above them, and the mask bounds the result. -/
theorem historyShiftBits : Obligations.HistoryShiftBits :=
  ⟨fun n h o hn hh =>
    ⟨testBit_histShift_top hn hh o, fun _ hj => testBit_histShift_of_lt hj h o, histShift_lt n h o⟩,
    histShift_zero⟩

end Sys2Proof.Machine
end

section
/-! A gshare event: its end, its one trained cell and the cells it leaves. The cell is the one the history before the
event selects (43_gshare R98, R100). -/

namespace Sys2Proof.Machine

variable (taken : Bool) (a : Addr) (s : State)

theorem gshareEvent_eq :
    gshareEvent taken a s = { s with
      mem := (gshareEvent taken a s).mem, ghr := histShift s.cfg.n.toNat s.ghr taken, npred := s.npred + 1
      nmisp := s.nmisp + (if isTaken (s.tblRead .gsh (gshIndex a s)) = taken then 0 else 1)
      response := some (.event (isTaken (s.tblRead .gsh (gshIndex a s)) == taken)
        (isTaken (s.tblRead .gsh (gshIndex a s)))) } :=
  finishEvent_eq _ _

/-- The cell is found, read and written back under one index, that of the state before the event. -/
@[simp] theorem tblRead_gshareEvent_same :
    (gshareEvent taken a s).tblRead .gsh (gshIndex a s) = upd (s.tblRead .gsh (gshIndex a s)) taken :=
  tblRead_tblWrite_same s _ _ _

theorem tblRead_gshareEvent_other {u : TableId} {j : Nat} (h : u ≠ .gsh ∨ j ≠ gshIndex a s) :
    (gshareEvent taken a s).tblRead u j = s.tblRead u j := tblRead_tblWrite_other s _ h

variable {s}

theorem exec_puGshare (hr : s.phase = .ready) (hs : s.cfg.scheme = .gshare) :
    exec (.puGshare taken a) s = .next (gshareEvent taken a s) := performEvent_eq_next.2 ⟨hr, hs, rfl⟩

/-- Where the history is no wider than the index, the gshare index of an event selects a cell that exists. -/
theorem gshIndex_lt_size (hr : s.phase = .ready) (ho : schemeOwns s.cfg.scheme .gsh = true)
    (hn : s.cfg.n.toNat ≤ s.cfg.m1.toNat) : gshIndex a s < s.size .gsh := by
  rw [size_ready hr ho]
  exact idxGshare_lt hn _ _

end Sys2Proof.Machine
end

section
/-! The statement about PU.GSHARE. -/

namespace Sys2Proof.Machine

/-- Settles O17: in READY the next state is `gshareEvent`, which trains the cell indexed before the event alone and then
shifts the history; the scheme owns `GSH`, and neither `BIM` nor `CHO`. -/
theorem gshareEventTrainsAndShifts : Obligations.GshareEventTrainsAndShifts := by
  intro taken a s
  refine ⟨rfl, performEvent_of_notReady, fun hr hs => ?_⟩
  have howns (u : TableId) : schemeOwns s.cfg.scheme u = schemeOwns .gshare u := by rw [hs]
  refine ⟨gshareEvent taken a s, exec_puGshare taken a hr hs, gshareEvent_eq taken a s, ?trained, ?near,
    fun u j => tblRead_gshareEvent_other taken a s, gshIndex_lt_size a hr (howns .gsh),
    size_notOwned (howns .bim), size_notOwned (howns .cho)⟩
  case trained => exact (congrArg BitVec.toNat (tblRead_gshareEvent_same taken a s)).trans (upd_toNat _ taken)
  case near => exact (tblRead_gshareEvent_same taken a s).symm ▸ withinOne_apply _ _

end Sys2Proof.Machine
end

section
/-! The chooser in numbers, and how far a drive moves a cell (44_hybrid R106, R107). -/

namespace Sys2Proof.Machine

/-- The chooser moves toward the sub-predictor that alone was right. -/
theorem choUpd_toNat (c : Counter) (gc bc : Bool) :
    (choUpd c gc bc).toNat =
      if gc && !bc then min (c.toNat + 1) 3 else if bc && !gc then c.toNat - 1 else c.toNat := by
  cases gc <;> cases bc
  case true.false => exact inc_toNat c
  case false.true => exact dec_toNat c
  case true.true => rfl
  case false.false => rfl

/-- No drive moves any cell by more than one. -/
theorem withinOne_driven (s : State) (op : MicroOp) (c : CellRef) (u : TableId) (j : Nat) :
    withinOne ((s.driven op c).tblRead u j) (s.tblRead u j) := by
  by_cases h : u = c.table ∧ j = c.index
  · rw [h.1, h.2, tblRead_driven_same]
    exact withinOne_apply _ op
  · rw [tblRead_driven_other s op c (not_and_or.1 h)]
    exact withinOne_refl _

end Sys2Proof.Machine
end

section
/-! A hybrid event: one drive of the selected sub-table's cell, one of the chooser's, and its end; every index and every
value is of the state before the event (44_hybrid R108 to R110, R112). -/

namespace Sys2Proof.Machine

variable (taken : Bool) (a : Addr) (s : State)

/-- The prediction is that of the selected sub-predictor. -/
theorem hybridPrediction_eq :
    hybridPrediction a s =
      if 2 ≤ (s.tblRead .cho (choIndex a s)).toNat then isTaken (s.tblRead .gsh (gshIndex a s))
      else isTaken (s.tblRead .bim (bimIndex a s)) := by
  simp [hybridPrediction, selGshare]

/-- The cell that the chooser selects for training. -/
def selectedCell : CellRef :=
  if 2 ≤ (s.tblRead .cho (choIndex a s)).toNat then ⟨.gsh, gshIndex a s⟩ else ⟨.bim, bimIndex a s⟩

theorem selectedCell_of_gshare {a : Addr} {s : State} (h : 2 ≤ (s.tblRead .cho (choIndex a s)).toNat) :
    selectedCell a s = ⟨.gsh, gshIndex a s⟩ := if_pos h

theorem selectedCell_of_bimodal {a : Addr} {s : State} (h : ¬ 2 ≤ (s.tblRead .cho (choIndex a s)).toNat) :
    selectedCell a s = ⟨.bim, bimIndex a s⟩ := if_neg h

theorem selectedCell_table_ne_cho : (selectedCell a s).table ≠ .cho := by
  unfold selectedCell
  split <;> simp

/-- Training is one drive of the selected cell by the outcome. -/
theorem trainSelected_eq_driven :
    trainSelected taken a s = s.driven (updDrive taken) (selectedCell a s) := by
  simp only [trainSelected, selectedCell, selGshare, decide_eq_true_eq]
  split <;> rfl

theorem hybridEvent_eq :
    hybridEvent taken a s = { s with
      mem := (hybridEvent taken a s).mem, ghr := histShift s.cfg.n.toNat s.ghr taken, npred := s.npred + 1
      nmisp := s.nmisp + (if hybridPrediction a s = taken then 0 else 1)
      response := some (.event (hybridPrediction a s == taken) (hybridPrediction a s)) } := by
  rw [hybridEvent, trainSelected_eq_driven]
  exact finishEvent_eq _ _

@[simp] theorem hybridEvent_phase : (hybridEvent taken a s).phase = s.phase := by rw [hybridEvent_frame]
@[simp] theorem hybridEvent_err : (hybridEvent taken a s).err = s.err := by rw [hybridEvent_frame]
@[simp] theorem hybridEvent_cfg : (hybridEvent taken a s).cfg = s.cfg := by rw [hybridEvent_frame]

/-- The chooser cell is judged by the values before the event. -/
@[simp] theorem tblRead_hybridEvent_chooser :
    (hybridEvent taken a s).tblRead .cho (choIndex a s) = nextChooser taken a s := tblRead_tblWrite_same _ _ _ _

/-- Every cell but the chooser's is as the drive of the selected cell leaves it. -/
theorem tblRead_hybridEvent {u : TableId} {j : Nat} (h : u ≠ .cho ∨ j ≠ choIndex a s) :
    (hybridEvent taken a s).tblRead u j = (s.driven (updDrive taken) (selectedCell a s)).tblRead u j := by
  rw [← trainSelected_eq_driven]
  exact tblRead_tblWrite_other _ _ h

/-- The selected cell is trained by the outcome. -/
theorem tblRead_hybridEvent_selected :
    (hybridEvent taken a s).tblRead (selectedCell a s).table (selectedCell a s).index =
      upd (s.tblRead (selectedCell a s).table (selectedCell a s).index) taken := by
  rw [tblRead_hybridEvent taken a s (.inl (selectedCell_table_ne_cho a s)), tblRead_driven_same, upd]

/-- A cell that is neither the chooser's nor the selected one is unchanged (44_hybrid R109). -/
theorem tblRead_hybridEvent_other {u : TableId} {j : Nat} (hcho : u ≠ .cho ∨ j ≠ choIndex a s)
    (hsel : u ≠ (selectedCell a s).table ∨ j ≠ (selectedCell a s).index) :
    (hybridEvent taken a s).tblRead u j = s.tblRead u j := by
  rw [tblRead_hybridEvent taken a s hcho, tblRead_driven_other s _ _ hsel]

/-- Each cell of the three tables moves by at most one. -/
theorem withinOne_hybridEvent (u : TableId) (j : Nat) :
    withinOne ((hybridEvent taken a s).tblRead u j) (s.tblRead u j) := by
  by_cases h : u = .cho ∧ j = choIndex a s
  · rw [h.1, h.2, tblRead_hybridEvent_chooser]
    exact withinOne_apply _ _
  · rw [tblRead_hybridEvent taken a s (not_and_or.1 h)]
    exact withinOne_driven s _ _ u j

theorem exec_puHybrid {s : State} (hr : s.phase = .ready) (hs : s.cfg.scheme = .hybrid) :
    exec (.puHybrid taken a) s = .next (hybridEvent taken a s) := performEvent_eq_next.2 ⟨hr, hs, rfl⟩

/-- The chooser's next value in numbers, from the two sub-predictions. -/
theorem nextChooser_toNat :
    (nextChooser taken a s).toNat =
      if isTaken (s.tblRead .gsh (gshIndex a s)) = taken ∧ isTaken (s.tblRead .bim (bimIndex a s)) ≠ taken then
        min ((s.tblRead .cho (choIndex a s)).toNat + 1) 3
      else if isTaken (s.tblRead .bim (bimIndex a s)) = taken ∧ isTaken (s.tblRead .gsh (gshIndex a s)) ≠ taken then
        (s.tblRead .cho (choIndex a s)).toNat - 1
      else (s.tblRead .cho (choIndex a s)).toNat := by
  simp [nextChooser, choUpd_toNat, correctFlag]

end Sys2Proof.Machine
end

section
/-! The statements about PU.HYBRID. -/

namespace Sys2Proof.Machine

/-- Settles O18: in READY the next state is `hybridEvent`. The selected cell is driven by the outcome, the chooser cell
by the two correctness flags, each from the value it held before the event. -/
theorem hybridEventSelectsTrainsAndJudges : Obligations.HybridEventSelectsTrainsAndJudges := by
  intro taken a s
  have htrained := (congrArg BitVec.toNat (tblRead_hybridEvent_selected taken a s)).trans (upd_toNat _ taken)
  refine ⟨rfl, performEvent_of_notReady, fun hr hs =>
    ⟨hybridEvent taken a s, exec_puHybrid taken a hr hs, ?ends, fun h => ?gshare, fun h => ?bimodal, ?chooser⟩⟩
  case ends => exact hybridPrediction_eq a s ▸ hybridEvent_eq taken a s
  case gshare => rwa [selectedCell_of_gshare h] at htrained
  case bimodal => rwa [selectedCell_of_bimodal h] at htrained
  case chooser =>
    exact (congrArg BitVec.toNat (tblRead_hybridEvent_chooser taken a s)).trans (nextChooser_toNat taken a s)

/-- Settles O19: a cell changes only where it is the selected one or the chooser's, and which sub-table holds the
selected one is the chooser's choice. -/
theorem hybridEventLeavesTheOtherTableAlone : Obligations.HybridEventLeavesTheOtherTableAlone := by
  intro taken a s t hnext
  obtain ⟨-, -, rfl⟩ := performEvent_eq_next.1 hnext
  have hsub {u : TableId} {j : Nat} (hu : u ≠ .cho) := tblRead_hybridEvent_other taken a s (j := j) (.inl hu)
  refine ⟨fun h => ?gshare, fun h => ?bimodal, fun j hj => ?chooser, hybridEvent_cfg taken a s,
    hybridEvent_phase taken a s, hybridEvent_err taken a s, withinOne_hybridEvent taken a s⟩
  case gshare =>
    rw [selectedCell_of_gshare h] at hsub
    exact ⟨fun j => hsub (by simp) (.inl (by simp)), fun j hj => hsub (by simp) (.inr hj)⟩
  case bimodal =>
    rw [selectedCell_of_bimodal h] at hsub
    exact ⟨fun j => hsub (by simp) (.inl (by simp)), fun j hj => hsub (by simp) (.inr hj)⟩
  case chooser => exact tblRead_hybridEvent_other taken a s (.inr hj) (.inl (selectedCell_table_ne_cho a s).symm)

end Sys2Proof.Machine
end

section
/-! The history over a trace: an event puts its outcome into the register whatever it reads of the tables
(44_hybrid R111). -/

namespace Sys2Proof.Machine

variable {s : State}

/-- Under a scheme that has a history register every event shifts its outcome in. -/
theorem eventStep_ghr (e : Bool × Addr) (h : s.cfg.scheme ≠ .bimodal) :
    (eventStep s e).ghr = histShift s.cfg.n.toNat s.ghr e.1 := by
  unfold eventStep
  cases hs : s.cfg.scheme with
  | bimodal => exact absurd hs h
  | gshare => rfl
  | hybrid => exact congrArg State.ghr (hybridEvent_eq e.1 e.2 s)

/-- Over a trace the history is a function of `N`, of its first value and of the outcomes alone. -/
theorem foldl_eventStep_ghr (evs : List (Bool × Addr)) (h : s.cfg.scheme ≠ .bimodal) :
    (evs.foldl eventStep s).ghr = (evs.map Prod.fst).foldl (histShift s.cfg.n.toNat) s.ghr := by
  induction evs generalizing s with
  | nil => rfl
  | cons e evs ih =>
    rw [List.foldl_cons, ih (by simpa using h), eventStep_cfg, eventStep_ghr e h, List.map_cons, List.foldl_cons]

/-- Settles O53: both runs fold their events, and both histories are one fold of the same outcomes. -/
theorem hybridHistoryIsGshareHistory : Obligations.HybridHistoryIsGshareHistory := by
  intro evsH evsG h g restH restG hh hg hsh hsg hn hghr hout hinH hinG
  refine ⟨_, _, runSteps_events evsH hh hinH, runSteps_events evsG hg hinG, ?_⟩
  rw [foldl_eventStep_ghr evsH (by simp [hsh]), foldl_eventStep_ghr evsG (by simp [hsg])]
  simp only [setInput_cfg, setInput_ghr, hn, hghr, hout]

end Sys2Proof.Machine
end

section
/-! CONFIGURE: its two ends (45_system R121, 60_exceptions R141). -/

namespace Sys2Proof.Machine

variable {sch : Option Scheme} {k m1 n m2 : Exponent} (s : State)

/-- A CONFIGURE that passes the check constructs. -/
theorem exec_configure_of_valid {sc : Scheme} (h : configCheck (some sc) k m1 n m2 = .noError) :
    exec (.configure (some sc) k m1 n m2) s = .next (s.construct ⟨sc, k, m1, n, m2⟩) := by
  simp only [exec, execConfigure, h]

/-- Every other CONFIGURE raises ConfigError with the check's code. -/
theorem exec_configure_of_invalid (h : configCheck sch k m1 n m2 ≠ .noError) :
    exec (.configure sch k m1 n m2) s = .next (s.raiseConfigError (configCheck sch k m1 n m2)) := by
  obtain ⟨_, _, hv, _⟩ | ⟨_, hraised⟩ := execConfigure_cases (s := s) sch k m1 n m2
  · exact absurd hv h
  · exact hraised

/-- Only an operand that names a scheme passes the check. -/
theorem exists_scheme_of_valid (h : configCheck sch k m1 n m2 = .noError) : ∃ sc, sch = some sc := by
  cases sch with
  | none => simp [configCheck] at h
  | some sc => exact ⟨sc, rfl⟩

/-- Settles O26: an accepted CONFIGURE constructs from its operands and a rejected one raises the check's code; both keep
the driver's side alone of the state before, and the second draws `CFG.*` from it. -/
theorem configureForgetsTheRun : Obligations.ConfigureForgetsTheRun := by
  intro sch k m1 n m2 s₁ s₂
  by_cases hv : configCheck sch k m1 n m2 = .noError
  case pos =>
    obtain ⟨sc, rfl⟩ := exists_scheme_of_valid hv
    exact ⟨_, _, exec_configure_of_valid s₁ hv, exec_configure_of_valid s₂ hv, rfl, fun _ => rfl⟩
  case neg =>
    exact ⟨_, _, exec_configure_of_invalid s₁ hv, exec_configure_of_invalid s₂ hv, rfl, fun h => absurd h hv⟩

end Sys2Proof.Machine
end

section
/-! REPORT: its outcome in each phase, and the record it returns in READY (45_system R126 to R130). -/

namespace Sys2Proof.Machine

variable {s : State}

theorem exec_report_ready (h : s.phase = .ready) :
    exec .report s = .next (s.respond (.report (runReport s))) :=
  show execReport s = _ by simpa [h] using execReport_cases (s := s)

theorem exec_report_error (h : s.phase = .error) :
    exec .report s = .next (s.respond (.errorReport .error s.err)) :=
  show execReport s = _ by simpa [h] using execReport_cases (s := s)

theorem exec_report_unconfigured (h : s.phase = .unconfigured) :
    exec .report s = .refused .reportUnconfigured :=
  show execReport s = _ by simpa [h] using execReport_cases (s := s)

@[simp] theorem length_tablePairs (s : State) (u : TableId) : (tablePairs s u).length = s.size u := by
  simp [tablePairs]

/-- The tables come in the report order. -/
theorem runReport_tables_fst (s : State) : (runReport s).tables.map Prod.fst = reportOrder s.cfg.scheme :=
  List.map_map.trans (List.map_id _)

/-- Each of them is listed with its own pairs. -/
theorem eq_tablePairs_of_mem_runReport {u : TableId} {l : List (Nat × Counter)}
    (h : (u, l) ∈ (runReport s).tables) : l = tablePairs s u := by
  obtain ⟨v, -, hv⟩ := List.mem_map.1 h
  obtain ⟨rfl, rfl⟩ := Prod.mk.inj hv
  rfl

/-- Settles O31: in READY the result is `runReport`, whose tables are the report order, each with its pairs. -/
theorem reportReadsOutTheState : Obligations.ReportReadsOutTheState := by
  refine ⟨rfl, fun s hr => ⟨_, runReport s, exec_report_ready hr, rfl, rfl, rfl, rfl, rfl,
    runReport_tables_fst s, fun u l hmem => ?pairs⟩⟩
  case pairs =>
    obtain rfl := eq_tablePairs_of_mem_runReport hmem
    exact ⟨length_tablePairs s u, fun i hi => by rw [tablePairs_getElem?, if_pos hi]⟩

/-- Settles O32: the outcomes of REPORT in the two phases without a predictor. -/
theorem reportOutsideReady : Obligations.ReportOutsideReady :=
  fun _ => ⟨exec_report_error, exec_report_unconfigured⟩

end Sys2Proof.Machine
end

section
/-! The misprediction rate as a rational number (45_system R128, R129). -/

namespace Sys2Proof.Machine

variable {p : Nat} (m : Nat)

@[simp] theorem mispredictionRate_zero : mispredictionRate 0 m = .noData := rfl

theorem mispredictionRate_of_pos (hp : 0 < p) :
    mispredictionRate p m = .percent ((m : Rat) / (p : Rat) * 100) := by
  rw [mispredictionRate, if_neg hp.ne', Rat.mkRat_eq_div]
  push_cast
  rw [mul_comm, mul_div_right_comm]

/-- A part of a whole is between 0 and 100 percent of it. -/
theorem percentage_mem_Icc {m : Nat} (h : m ≤ p) :
    0 ≤ (m : Rat) / (p : Rat) * 100 ∧ (m : Rat) / (p : Rat) * 100 ≤ 100 := by
  have hle : (m : Rat) / (p : Rat) ≤ 1 := div_le_one_of_le₀ (Nat.cast_le.2 h) p.cast_nonneg
  exact ⟨by positivity, by linarith⟩

/-- Settles O34: at `p = 0` there is no number, and at every other `p` the number is the exact percentage. -/
theorem rateIsExactOrNoData : Obligations.RateIsExactOrNoData := by
  intro p m
  rcases p.eq_zero_or_pos with rfl | hp
  case inl => simp
  case inr =>
    refine ⟨?noData, fun _ => mispredictionRate_of_pos m hp, fun r hm hr => ?bounds⟩
    case noData => simp [mispredictionRate_of_pos m hp, hp.ne']
    case bounds =>
      obtain rfl := Rate.percent.inj ((mispredictionRate_of_pos m hp).symm.trans hr)
      exact percentage_mem_Icc hm

end Sys2Proof.Machine
end

section
/-! A presented EVENT word: `PHASE` is read first, and `CFG.SCHEME` in READY only (45_system R122). -/

namespace Sys2Proof.Machine

theorem step_encodeEvent {taken : Bool} {a : Addr} {s : State} {rest : List Input}
    (hin : s.input = .command (encodeEvent taken a) :: rest) :
    step s =
      if s.phase = .ready then exec (eventInstr s.cfg.scheme taken a) (s.setInput rest)
      else .refused .eventOutsideReady := by
  rw [step_cons hin]
  simp only [performInput, decodeCommand_encodeEvent]
  rfl

/-- Settles O44: in READY the operation is `eventInstr` of the stored scheme. -/
theorem eventIsDispatchedByScheme : Obligations.EventIsDispatchedByScheme := by
  intro taken a s rest hin
  have hready (sc : Scheme) (hr : s.phase = .ready) (hs : s.cfg.scheme = sc) :
      step s = exec (eventInstr sc taken a) (s.setInput rest) := by
    rw [step_encodeEvent hin, if_pos hr, hs]
  exact ⟨fun h => by rw [step_encodeEvent hin, if_neg h], hready .bimodal, hready .gshare, hready .hybrid⟩

end Sys2Proof.Machine
end

section
/-! `config_check` scheme by scheme: the checks that bind it, in their order (60_exceptions R139). -/

namespace Sys2Proof.Machine

variable (k m1 n m2 : Exponent)

/-- The width bound is broken by an exponent above `AW - 2` (60_exceptions R138). -/
@[simp] theorem widthFits_eq_false (w : Exponent) : widthFits w = false ↔ 32 < w.toNat + 2 := by
  rw [widthFits, decide_eq_false_iff_not, Nat.not_le]

theorem schemeCheck_bimodal :
    schemeCheck .bimodal k m1 n m2 = if 32 < m2.toNat + 2 then .indexWidth else .noError := by
  simp [schemeCheck, schemeOwns]

theorem schemeCheck_gshare :
    schemeCheck .gshare k m1 n m2 =
      if m1.toNat < n.toNat then .histWidth else if 32 < m1.toNat + 2 then .indexWidth else .noError := by
  simp [schemeCheck, schemeOwns]

/-- The three width checks of hybrid give one code, so they are one check. -/
theorem schemeCheck_hybrid :
    schemeCheck .hybrid k m1 n m2 =
      if m1.toNat < n.toNat then .histWidth
      else if 32 < m2.toNat + 2 ∨ 32 < m1.toNat + 2 ∨ 32 < k.toNat + 2 then .indexWidth else .noError := by
  simp [schemeCheck, schemeOwns, ite_or]

/-- Settles O25: without a scheme the first check fails, with one the rest are `schemeCheck`. -/
theorem configCheckOrder : Obligations.ConfigCheckOrder := fun k m1 n m2 =>
  ⟨rfl, schemeCheck_bimodal k m1 n m2, schemeCheck_gshare k m1 n m2, schemeCheck_hybrid k m1 n m2⟩

end Sys2Proof.Machine
end

section
/-! Taking ConfigError (60_exceptions R141). -/

namespace Sys2Proof.Machine

/-- Settles O24: the next state is `raiseConfigError`'s, and in `PHASE` ERROR no table and no history register exists. -/
theorem invalidConfigureRaisesConfigError : Obligations.InvalidConfigureRaisesConfigError := by
  intro sch k m1 n m2 s h
  have hnotReady : (s.raiseConfigError (configCheck sch k m1 n m2)).phase ≠ .ready := by simp
  exact ⟨_, exec_configure_of_invalid s h, rfl, rfl, rfl, rfl, rfl, size_notReady hnotReady,
    ghrWidth_notReady hnotReady, rfl⟩

end Sys2Proof.Machine
end

section
/-! What raises no exception: every instruction but CONFIGURE keeps the life-cycle registers, and neither an event nor
REPORT faults (60_exceptions R140, R144). -/

namespace Sys2Proof.Machine

variable {i : Instr} {s t : State}

/-- No instruction but CONFIGURE writes `CFG.*`, `PHASE` or `ERR`. -/
theorem exec_keeps_cfg_phase_err (hi : i.isConfigure = false) (hnext : exec i s = .next t) :
    t.cfg = s.cfg ∧ t.phase = s.phase ∧ t.err = s.err := by
  have hdrive {op : MicroOp} {c : CellRef} (h : driveCell op c s = .next t) :
      t.cfg = s.cfg ∧ t.phase = s.phase ∧ t.err = s.err := by
    obtain ⟨-, rfl⟩ := driveCell_eq_next.1 h
    exact ⟨rfl, rfl, rfl⟩
  cases i with
  | configure => cases hi
  | puBimodal taken a =>
    obtain ⟨-, -, rfl⟩ := performEvent_eq_next.1 hnext
    exact ⟨rfl, rfl, rfl⟩
  | puGshare taken a =>
    obtain ⟨-, -, rfl⟩ := performEvent_eq_next.1 hnext
    exact ⟨rfl, rfl, rfl⟩
  | puHybrid taken a =>
    obtain ⟨-, -, rfl⟩ := performEvent_eq_next.1 hnext
    exact ⟨hybridEvent_cfg taken a s, hybridEvent_phase taken a s, hybridEvent_err taken a s⟩
  | report =>
    obtain ⟨-, h⟩ | ⟨-, h⟩ | ⟨-, h⟩ := execReport_cases (s := s)
    · cases h.symm.trans hnext
    · cases h.symm.trans hnext
      exact ⟨rfl, rfl, rfl⟩
    · cases h.symm.trans hnext
      exact ⟨rfl, rfl, rfl⟩
  | ctrHold cell up => exact hdrive hnext
  | ctrDec cell => exact hdrive hnext
  | ctrInc cell => exact hdrive hnext

theorem exec_event_ne_fault (hi : i.isEvent = true) (f : Fault) : exec i s ≠ .fault f := by
  cases i with
  | puBimodal => exact performEvent_ne_fault
  | puGshare => exact performEvent_ne_fault
  | puHybrid => exact performEvent_ne_fault
  | _ => cases hi

theorem exec_report_ne_fault (f : Fault) : exec .report s ≠ .fault f := by
  intro hf
  obtain ⟨-, h⟩ | ⟨-, h⟩ | ⟨-, h⟩ := execReport_cases (s := s)
  all_goals cases h.symm.trans hf

theorem isConfigure_of_isEvent (hi : i.isEvent = true) : i.isConfigure = false := by
  cases i with
  | configure => cases hi
  | _ => rfl

/-- Settles O21: no fault is possible, and neither is CONFIGURE, the only instruction that writes `PHASE` or `ERR`. -/
theorem eventsAndReportsRaiseNothing : Obligations.EventsAndReportsRaiseNothing := by
  rintro i s (hevent | rfl)
  · exact ⟨exec_event_ne_fault hevent,
      fun t hnext => (exec_keeps_cfg_phase_err (isConfigure_of_isEvent hevent) hnext).2⟩
  · exact ⟨exec_report_ne_fault, fun t hnext => (exec_keeps_cfg_phase_err rfl hnext).2⟩

/-- Settles O27: a CONFIGURE takes one of its two ends, and every other instruction keeps `PHASE` and `ERR`. -/
theorem onlyValidConfigureLeavesError : Obligations.OnlyValidConfigureLeavesError := by
  intro i s t herror hnext
  by_cases hi : i.isConfigure = false
  case pos =>
    obtain ⟨-, hphase, herr⟩ := exec_keeps_cfg_phase_err hi hnext
    exact .inr (.inr ⟨hi, hphase.trans herror, herr⟩)
  case neg =>
    cases i with
    | configure sch k m1 n m2 =>
      obtain ⟨sc, rfl, hv, h⟩ | ⟨hv, h⟩ := execConfigure_cases (s := s) sch k m1 n m2
      · cases h.symm.trans hnext
        exact .inl ⟨sc, k, m1, n, m2, rfl, hv, rfl⟩
      · cases h.symm.trans hnext
        exact .inr (.inl ⟨sch, k, m1, n, m2, rfl, hv, rfl, rfl⟩)
    | _ => exact absurd rfl hi

end Sys2Proof.Machine
end

section
/-! The decoder by the numbers of a word's fields, one equation per class of words (30_encoding R51 to R55, R59). -/

namespace Sys2Proof

/-- A field holds a value when its number is that value's. -/
theorem extractLsb'_eq_iff {w lo len : Nat} {x : BitVec w} {y : BitVec len} :
    x.extractLsb' lo len = y ↔ x.toNat / 2 ^ lo % 2 ^ len = y.toNat := by
  rw [BitVec.toNat_eq, toNat_extract]

/-- The field `cmd` is what stands above bit 32. -/
theorem cmd_eq_iff {w : CmdWord} {y : BitVec 2} : w.extractLsb' 33 2 = y ↔ w.toNat / 2 ^ 33 = y.toNat := by
  have hw := w.isLt
  rw [extractLsb'_eq_iff, Nat.mod_eq_of_lt (by omega)]

/-- The payload of a format-RP word is all below `cmd`. -/
theorem payload_eq_iff {w : CmdWord} {y : BitVec 33} : w.extractLsb' 0 33 = y ↔ w.toNat % 2 ^ 33 = y.toNat := by
  rw [extractLsb'_eq_iff, Nat.pow_zero, Nat.div_one]

variable {w : CmdWord}

theorem decodeCommand_of_configure (hcmd : w.toNat / 2 ^ 33 = 0) (hz : w.toNat / 2 ^ 26 % 2 ^ 7 = 0) :
    decodeCommand w = .ok (.configure (schemeOfCode (w.extractLsb' 24 2)) (w.extractLsb' 18 6) (w.extractLsb' 12 6)
      (w.extractLsb' 6 6) (w.extractLsb' 0 6)) := by
  rw [decodeCommand, if_pos (cmd_eq_iff.2 hcmd), if_pos (extractLsb'_eq_iff.2 hz)]

theorem decodeCommand_of_configureZ (hcmd : w.toNat / 2 ^ 33 = 0) (hz : w.toNat / 2 ^ 26 % 2 ^ 7 ≠ 0) :
    decodeCommand w = .error .configureZ := by
  rw [decodeCommand, if_pos (cmd_eq_iff.2 hcmd), if_neg (mt extractLsb'_eq_iff.1 hz)]

theorem decodeCommand_of_event (hcmd : w.toNat / 2 ^ 33 = 1) :
    decodeCommand w = .ok (.event (w.getLsbD 32) (w.extractLsb' 0 32)) := by
  rw [decodeCommand, (cmd_eq_iff (y := 1)).2 hcmd]
  rfl

theorem decodeCommand_of_report (hcmd : w.toNat / 2 ^ 33 = 2) (hp : w.toNat % 2 ^ 33 = 0) :
    decodeCommand w = .ok .report := by
  rw [decodeCommand, (cmd_eq_iff (y := 2)).2 hcmd, (payload_eq_iff (y := 0)).2 hp]
  rfl

theorem decodeCommand_of_reportPayload (hcmd : w.toNat / 2 ^ 33 = 2) (hp : w.toNat % 2 ^ 33 ≠ 0) :
    decodeCommand w = .error .reportPayload := by
  rw [decodeCommand, (cmd_eq_iff (y := 2)).2 hcmd, if_neg (mt payload_eq_iff.1 hp)]
  rfl

theorem decodeCommand_of_cmdThree (hcmd : w.toNat / 2 ^ 33 = 3) : decodeCommand w = .error .cmdThree := by
  rw [decodeCommand, (cmd_eq_iff (y := 3)).2 hcmd]
  rfl

end Sys2Proof
end

section
/-! Commands by `PHASE`: which are refused and which go on (60_exceptions R143). -/

namespace Sys2Proof.Machine

/-- The commands a phase refuses: an EVENT outside READY, a REPORT in UNCONFIGURED. -/
def refusesCommand (p : Phase) : Command → Prop
  | .configure _ _ _ _ _ => False
  | .event _ _ => p ≠ .ready
  | .report => p = .unconfigured

variable {c : Command} {s : State} {w : CmdWord} {rest : List Input}

/-- A command is refused, or it goes on. -/
theorem performCommand_cases (c : Command) (s : State) :
    (refusesCommand s.phase c ∧ ∃ r, performCommand c s = .refused r) ∨
    (¬ refusesCommand s.phase c ∧ ∃ t, performCommand c s = .next t) := by
  cases c with
  | configure sch k m1 n m2 =>
    obtain ⟨_, _, _, h⟩ | ⟨_, h⟩ := execConfigure_cases (s := s) sch k m1 n m2
    · exact .inr ⟨id, _, h⟩
    · exact .inr ⟨id, _, h⟩
  | event taken a =>
    by_cases hr : s.phase = .ready
    · exact .inr ⟨fun h => h hr, _, (if_pos hr).trans (exec_eventInstr hr (taken, a))⟩
    · exact .inl ⟨hr, _, if_neg hr⟩
  | report =>
    obtain ⟨hp, h⟩ | ⟨hp, h⟩ | ⟨hp, h⟩ := execReport_cases (s := s)
    · exact .inl ⟨hp, _, h⟩
    · exact .inr ⟨by simp [refusesCommand, hp], _, h⟩
    · exact .inr ⟨by simp [refusesCommand, hp], _, h⟩

/-- A step on a presented command word that decodes performs its command. -/
theorem step_of_decodeCommand (hin : s.input = .command w :: rest) (hw : decodeCommand w = .ok c) :
    step s = performCommand c (s.setInput rest) := by
  rw [step_cons hin]
  simp only [performInput, hw]

/-- A reserved word is refused. -/
theorem step_of_reserved {cls : ReservedClass} (hin : s.input = .command w :: rest)
    (hw : decodeCommand w = .error cls) : step s = .refused (.reservedWord cls) := by
  rw [step_cons hin]
  simp only [performInput, hw]

theorem step_refused_iff_of_decodeCommand (hin : s.input = .command w :: rest) (hw : decodeCommand w = .ok c) :
    (∃ r, step s = .refused r) ↔ refusesCommand s.phase c := by
  rw [step_of_decodeCommand hin hw]
  obtain ⟨hrefuses, r, h⟩ | ⟨hgoesOn, t, h⟩ := performCommand_cases c (s.setInput rest)
  · exact ⟨fun _ => hrefuses, fun _ => ⟨r, h⟩⟩
  · simpa [h] using hgoesOn

/-- A step on a command word never faults. -/
theorem step_command_ne_fault (hin : s.input = .command w :: rest) (f : Fault) : step s ≠ .fault f := by
  cases hw : decodeCommand w with
  | error cls => simp [step_of_reserved hin hw]
  | ok c =>
    rw [step_of_decodeCommand hin hw]
    obtain ⟨_, r, h⟩ | ⟨_, t, h⟩ := performCommand_cases c (s.setInput rest)
    · simp [h]
    · simp [h]

/-- Settles O45: `cmd` and the fields below it place a word in one of the decoder's six classes; the reserved ones are
refused, and of the others those whose command the phase refuses. -/
theorem refusedCommandWords : Obligations.RefusedCommandWords := by
  intro s w rest hin
  refine ⟨?_, step_command_ne_fault hin⟩
  have hreserved {cls : ReservedClass} (hw : decodeCommand w = .error cls) : ∃ r, step s = .refused r :=
    ⟨_, step_of_reserved hin hw⟩
  have hw := w.isLt
  obtain hcmd | hcmd | hcmd | hcmd :
      w.toNat / 2 ^ 33 = 0 ∨ w.toNat / 2 ^ 33 = 1 ∨ w.toNat / 2 ^ 33 = 2 ∨ w.toNat / 2 ^ 33 = 3 := by omega
  · by_cases hz : w.toNat / 2 ^ 26 % 2 ^ 7 = 0
    · rw [step_refused_iff_of_decodeCommand hin (decodeCommand_of_configure hcmd hz), hcmd, hz]
      simp [refusesCommand]
    · exact iff_of_true (hreserved (decodeCommand_of_configureZ hcmd hz)) (.inr (.inl ⟨hcmd, hz⟩))
  · rw [step_refused_iff_of_decodeCommand hin (decodeCommand_of_event hcmd), hcmd]
    simp [refusesCommand]
  · by_cases hp : w.toNat % 2 ^ 33 = 0
    · rw [step_refused_iff_of_decodeCommand hin (decodeCommand_of_report hcmd hp), hcmd, hp]
      simp [refusesCommand]
    · exact iff_of_true (hreserved (decodeCommand_of_reportPayload hcmd hp)) (.inr (.inr (.inl ⟨hcmd, hp⟩)))
  · exact iff_of_true (hreserved (decodeCommand_of_cmdThree hcmd)) (.inl hcmd)

end Sys2Proof.Machine
end

section
/-! The phase table on presented words (60_exceptions R147). -/

namespace Sys2Proof.Machine

variable {s : State} {rest : List Input}

@[simp] theorem decodeCommand_encodeReport : decodeCommand encodeReport = .ok .report := by decide

/-- The phase a CONFIGURE ends in. -/
theorem exec_configure_phase (sch : Option Scheme) (k m1 n m2 : Exponent) (s : State) :
    ∃ t, exec (.configure sch k m1 n m2) s = .next t ∧
      t.phase = if configCheck sch k m1 n m2 = .noError then .ready else .error := by
  obtain ⟨sc, rfl, hv, h⟩ | ⟨hv, h⟩ := execConfigure_cases (s := s) sch k m1 n m2
  · exact ⟨_, h, (if_pos hv).symm⟩
  · exact ⟨_, h, (if_neg hv).symm⟩

/-- Settles O46: each word decodes to its command. CONFIGURE takes one of its two ends, an EVENT in READY is
`eventStep`, and REPORT is refused in UNCONFIGURED only and writes no `PHASE`. -/
theorem phaseTransitions : Obligations.PhaseTransitions := by
  intro s rest
  refine ⟨fun sch k m1 n m2 hin => ?configure, fun taken a hin => ⟨fun hr => ?ready, fun hr => ?refused⟩,
    fun hin => ?report⟩
  case configure =>
    rw [step_of_decodeCommand hin (decodeCommand_encodeConfigure sch k m1 n m2)]
    exact exec_configure_phase sch k m1 n m2 _
  case ready => exact ⟨_, step_event (e := (taken, a)) hr hin, by simpa using hr⟩
  case refused => exact (step_refused_iff_of_decodeCommand hin (decodeCommand_encodeEvent taken a)).2 hr
  case report =>
    refine ⟨fun hp => ?_, (step_refused_iff_of_decodeCommand hin decodeCommand_encodeReport).2⟩
    rw [step_of_decodeCommand hin decodeCommand_encodeReport]
    obtain ⟨hrefuses, _⟩ | ⟨_, t, hnext⟩ := performCommand_cases .report (s.setInput rest)
    · exact absurd hrefuses hp
    · obtain ⟨-, hphase, -⟩ := exec_keeps_cfg_phase_err (i := .report) rfl hnext
      exact ⟨t, hnext, hphase⟩

end Sys2Proof.Machine
end

section
/-! A trace presented in READY as a run (70_reset R158). -/

namespace Sys2Proof.Machine

/-- Settles O49: `runSteps_events`, by induction over the trace: a step in READY consumes one event, performs its
`eventStep` and stays in READY, and an event does not look at the inputs still to come. -/
theorem traceIsAFoldOfEvents : Obligations.TraceIsAFoldOfEvents :=
  fun evs _ _ hready hin => runSteps_events evs hready hin

end Sys2Proof.Machine
end

section
/-! The command words and the commands stand for each other, one word to one command (30_encoding R51 to R59). -/

namespace Sys2Proof

/-- The word of a command. -/
def commandWord : Command → CmdWord
  | .configure sch k m1 n m2 => encodeConfigure sch k m1 n m2
  | .event taken a => encodeEvent taken a
  | .report => encodeReport

@[simp] theorem decodeCommand_commandWord (c : Command) : decodeCommand (commandWord c) = .ok c := by
  cases c with
  | configure sch k m1 n m2 => exact decodeCommand_encodeConfigure sch k m1 n m2
  | event taken a => exact decodeCommand_encodeEvent taken a
  | report => exact Machine.decodeCommand_encodeReport

variable {w : CmdWord}

/-- `cmd`, and below it `z` or the payload, place every word in one of six classes. -/
theorem cmdWord_classes (w : CmdWord) :
    (w.toNat / 2 ^ 33 = 0 ∧ w.toNat / 2 ^ 26 % 2 ^ 7 = 0) ∨ (w.toNat / 2 ^ 33 = 0 ∧ w.toNat / 2 ^ 26 % 2 ^ 7 ≠ 0) ∨
    w.toNat / 2 ^ 33 = 1 ∨
    (w.toNat / 2 ^ 33 = 2 ∧ w.toNat % 2 ^ 33 = 0) ∨ (w.toNat / 2 ^ 33 = 2 ∧ w.toNat % 2 ^ 33 ≠ 0) ∨
    w.toNat / 2 ^ 33 = 3 := by
  have hw := w.isLt
  omega

/-- A CONFIGURE word is put together again from its fields. -/
theorem encodeConfigure_of_fields (hcmd : w.toNat / 2 ^ 33 = 0) (hz : w.toNat / 2 ^ 26 % 2 ^ 7 = 0) :
    encodeConfigure (schemeOfCode (w.extractLsb' 24 2)) (w.extractLsb' 18 6) (w.extractLsb' 12 6)
      (w.extractLsb' 6 6) (w.extractLsb' 0 6) = w := by
  apply BitVec.eq_of_toNat_eq
  rw [encodeConfigure_toNat, codeOfScheme_schemeOfCode]
  simp only [toNat_extract]
  omega

/-- The lowest field of a word, in numbers. -/
theorem toNat_extract_zero {m : Nat} (x : BitVec m) (len : Nat) : (x.extractLsb' 0 len).toNat = x.toNat % 2 ^ len := by
  rw [toNat_extract, Nat.pow_zero, Nat.div_one]

/-- The outcome bit of an EVENT word as a number. -/
theorem getLsbD_outcome (w : CmdWord) : w.getLsbD 32 = decide (w.toNat / 2 ^ 32 % 2 = 1) := by
  rw [← BitVec.testBit_toNat, Nat.testBit_eq_decide_div_mod_eq]

/-- An EVENT word is put together again from its fields. -/
theorem encodeEvent_of_fields (hcmd : w.toNat / 2 ^ 33 = 1) :
    encodeEvent (w.getLsbD 32) (w.extractLsb' 0 32) = w := by
  apply BitVec.eq_of_toNat_eq
  rw [encodeEvent_toNat, toNat_extract, getLsbD_outcome]
  simp only [decide_eq_true_eq]
  split <;> omega

/-- The REPORT word is one word. -/
theorem encodeReport_of_fields (hcmd : w.toNat / 2 ^ 33 = 2) (hp : w.toNat % 2 ^ 33 = 0) : encodeReport = w := by
  apply BitVec.eq_of_toNat_eq
  rw [encodeReport_toNat]
  omega

/-- A word decodes to a command exactly when it is that command's word. -/
theorem decodeCommand_eq_ok_iff {c : Command} : decodeCommand w = .ok c ↔ commandWord c = w := by
  refine ⟨fun h => ?_, fun h => h ▸ decodeCommand_commandWord c⟩
  obtain ⟨hcmd, hz⟩ | ⟨hcmd, hz⟩ | hcmd | ⟨hcmd, hp⟩ | ⟨hcmd, hp⟩ | hcmd := cmdWord_classes w
  · cases (decodeCommand_of_configure hcmd hz).symm.trans h
    exact encodeConfigure_of_fields hcmd hz
  · cases (decodeCommand_of_configureZ hcmd hz).symm.trans h
  · cases (decodeCommand_of_event hcmd).symm.trans h
    exact encodeEvent_of_fields hcmd
  · cases (decodeCommand_of_report hcmd hp).symm.trans h
    exact encodeReport_of_fields hcmd hp
  · cases (decodeCommand_of_reportPayload hcmd hp).symm.trans h
  · cases (decodeCommand_of_cmdThree hcmd).symm.trans h

end Sys2Proof
end

section
/-! The statements about command words. -/

namespace Sys2Proof

/-- Settles O37: in each of the six classes the decoder's answer is known, and no two classes share a reserved one. -/
theorem reservedWords : Obligations.ReservedWords := by
  intro w
  obtain ⟨hcmd, hz⟩ | ⟨hcmd, hz⟩ | hcmd | ⟨hcmd, hp⟩ | ⟨hcmd, hp⟩ | hcmd := cmdWord_classes w
  · rw [decodeCommand_of_configure hcmd hz, hcmd, hz]
    simp
  · rw [decodeCommand_of_configureZ hcmd hz, hcmd]
    exact ⟨by simp, iff_of_true rfl ⟨rfl, hz⟩, by simp⟩
  · rw [decodeCommand_of_event hcmd, hcmd]
    simp
  · rw [decodeCommand_of_report hcmd hp, hcmd, hp]
    simp
  · rw [decodeCommand_of_reportPayload hcmd hp, hcmd]
    exact ⟨by simp, by simp, iff_of_true rfl ⟨rfl, hp⟩⟩
  · rw [decodeCommand_of_cmdThree hcmd, hcmd]
    simp

/-- Settles O38: each field is an `extractLsb'` of the word, and REPORT's word is `encodeReport`. -/
theorem commandFields : Obligations.CommandFields := by
  refine fun w => ⟨fun hcmd => ?event, fun hz => ?configure, ?report⟩
  case event =>
    exact ⟨_, _, decodeCommand_of_event hcmd, by rw [getLsbD_outcome, decide_eq_true_eq],
      toNat_extract_zero w 32⟩
  case configure =>
    have hfields := decodeCommand_of_configure (w := w) (by omega) (by omega)
    refine ⟨_, _, _, _, _, hfields, ?_, toNat_extract w 18 6, toNat_extract w 12 6,
      toNat_extract w 6 6, toNat_extract_zero w 6⟩
    rw [codeOfScheme_schemeOfCode]
    exact toNat_extract w 24 2
  case report =>
    rw [decodeCommand_eq_ok_iff, commandWord, BitVec.toNat_eq, encodeReport_toNat, eq_comm]

/-- Settles O40: a line assembles to the word of its command, and the outcome is whether the token is `t`. -/
theorem assemblyLinesDecode : Obligations.AssemblyLinesDecode := by
  refine ⟨fun m2 => decodeCommand_encodeConfigure _ _ _ _ m2, fun m1 n => decodeCommand_encodeConfigure _ _ m1 n _,
    fun k m1 n m2 => decodeCommand_encodeConfigure _ k m1 n m2,
    fun k m1 n m2 => decodeCommand_encodeConfigure _ k m1 n m2, fun a token => ?event,
    Machine.decodeCommand_encodeReport⟩
  case event => rw [assemble, decodeCommand_encodeEvent, outcomeOfToken, beq_eq_decide]

end Sys2Proof
end

section
/-! Instructions and the inputs that carry them: decode and encode undo each other (30_encoding R56, R57, R64). -/

namespace Sys2Proof

variable {mode : Scheme} {i : Instr} {w : CmdWord} {c : Command}

@[simp] theorem encode_eventInstr (mode : Scheme) (taken : Bool) (a : Addr) :
    encode (eventInstr mode taken a) = .command (encodeEvent taken a) := by cases mode <;> rfl

/-- Under every mode a command's instruction has the command's word. -/
theorem encode_commandInstr (mode : Scheme) (c : Command) :
    encode (commandInstr mode c) = .command (commandWord c) := by
  cases c with
  | configure => rfl
  | event taken a => exact encode_eventInstr mode taken a
  | report => rfl

/-- The instructions read under a mode are the EVENT's operation under it. -/
theorem mode?_eq_some_iff : i.mode? = some mode ↔ ∃ taken a, i = eventInstr mode taken a := by
  constructor
  · intro h
    cases i with
    | puBimodal taken a => cases h; exact ⟨taken, a, rfl⟩
    | puGshare taken a => cases h; exact ⟨taken, a, rfl⟩
    | puHybrid taken a => cases h; exact ⟨taken, a, rfl⟩
    | _ => cases h
  · rintro ⟨taken, a, rfl⟩
    cases mode <;> rfl

theorem decodeInput_command (h : decodeCommand w = .ok c) :
    decodeInput mode (.command w) = some (commandInstr mode c) := by simp only [decodeInput, h]

/-- A control word drives when `en` is set, in the direction `up`. -/
theorem decodeControl_encodeControl (cell : CellRef) (en up : Bool) :
    decodeControl cell (encodeControl en up) =
      if en then (if up then .ctrInc cell else .ctrDec cell) else .ctrHold cell up := by
  obtain ⟨hen, hup⟩ := encodeControl_bits en up
  rw [decodeControl, hen, hup]

/-- Every control word is that of its two bits. -/
theorem encodeControl_bits_self : ∀ w : CtlWord, encodeControl (w.getLsbD 1) (w.getLsbD 0) = w := by decide

/-- The instruction a control word drives a cell with has that word. -/
theorem encode_decodeControl (cell : CellRef) (w : CtlWord) : encode (decodeControl cell w) = .control cell w := by
  have hw := encodeControl_bits_self w
  rw [← hw, decodeControl_encodeControl]
  cases w.getLsbD 1 with
  | false => rfl
  | true => cases w.getLsbD 0 <;> rfl

/-- Settles O35: a word with one meaning decodes to it, and an EVENT word to its mode's operation. -/
theorem decodeOfEncode : Obligations.DecodeOfEncode := by
  rintro i mode - (hone | hmode)
  case inr =>
    obtain ⟨taken, a, rfl⟩ := mode?_eq_some_iff.1 hmode
    rw [encode_eventInstr, decodeInput_command (decodeCommand_encodeEvent taken a), commandInstr]
  case inl =>
    cases i with
    | configure sch k m1 n m2 => exact decodeInput_command (decodeCommand_encodeConfigure sch k m1 n m2)
    | report => exact decodeInput_command Machine.decodeCommand_encodeReport
    | ctrHold cell up => exact congrArg some (decodeControl_encodeControl cell false up)
    | ctrDec cell => exact congrArg some (decodeControl_encodeControl cell true false)
    | ctrInc cell => exact congrArg some (decodeControl_encodeControl cell true true)
    | _ => cases hone

/-- Settles O36: a command word is the word of the command it decodes to, and a control word that of its two bits. -/
theorem encodeOfDecode : Obligations.EncodeOfDecode := by
  intro i mode x h
  cases x with
  | command w =>
    cases hw : decodeCommand w with
    | error cls => simp [decodeInput, hw] at h
    | ok c =>
      cases (decodeInput_command hw).symm.trans h
      rw [encode_commandInstr, decodeCommand_eq_ok_iff.1 hw]
  | control cell w =>
    cases h
    exact encode_decodeControl cell w
  | resetPin => cases h

/-- Settles O39: each of the ten words is decoded as it stands. -/
theorem specWordsDecode : Obligations.SpecWordsDecode := by
  unfold Obligations.SpecWordsDecode
  decide

end Sys2Proof
end

section
/-! The gshare index where the history folds in, bit by bit and at its corners (41_index R83, R84). -/

namespace Sys2Proof.Machine

/-- Settles O9: in the one-line form the history is shifted up by `m1 - n`, so it meets no bit below that. -/
theorem gshareIndexBits : Obligations.GshareIndexBits := by
  intro m1 n a h j hn hj
  rw [idxGshare_eq_slice_xor hn, Nat.testBit_xor, testBit_slice, Nat.testBit_shiftLeft, Nat.testBit_mod_two_pow,
    Nat.add_comm 2 j]
  split
  case isTrue hlow => simp [hj, Nat.not_le.2 hlow]
  case isFalse hhigh =>
    have hfold : j - (m1 - n) < n := by omega
    simp [hj, Nat.le_of_not_lt hhigh, hfold]

/-- With nothing folded in, the gshare index is the bimodal one. -/
theorem idxGshare_of_mod_eq_zero {m1 n h : Nat} (hn : n ≤ m1) (a : Nat) (hh : h % 2 ^ n = 0) :
    idxGshare m1 n a h = idxBimodal m1 a := by
  rw [idxGshare_eq_slice_xor hn, hh, Nat.zero_shiftLeft, Nat.xor_zero, idxBimodal_eq_slice]

/-- A history of no bits folds nothing in. -/
theorem idxGshare_noHistory (m1 a h : Nat) : idxGshare m1 0 a h = idxBimodal m1 a :=
  idxGshare_of_mod_eq_zero (Nat.zero_le m1) a (Nat.mod_one h)

/-- A history as wide as the index meets every bit of it. -/
theorem idxGshare_fullHistory {m1 h : Nat} (a : Nat) (hh : h < 2 ^ m1) :
    idxGshare m1 m1 a h = idxBimodal m1 a ^^^ h := by
  rw [idxGshare_eq_slice_xor le_rfl, Nat.mod_eq_of_lt hh, Nat.sub_self, Nat.shiftLeft_zero, idxBimodal_eq_slice]

/-- Settles O11: with no history bits or history 0 nothing is folded in, with `n = m1` the fold is not shifted, a table
of one cell has index 0 alone, and an address has no bit from `AW` on. -/
theorem gshareIndexCornerCases : Obligations.GshareIndexCornerCases := by
  intro m1 a h ha
  refine ⟨idxGshare_noHistory m1 a h, idxGshare_fullHistory a, Nat.lt_one_iff.1 (idxGshare_lt le_rfl a h),
    fun n hn => idxGshare_of_mod_eq_zero hn a (Nat.zero_mod _), fun hw => ?widest⟩
  case widest => rw [Nat.sub_zero, hw, Nat.shiftRight_eq_div_pow, Nat.div_eq_of_lt ha]

end Sys2Proof.Machine
end

section
/-! The counter cell as logic, and the chooser by the two sub-predictions (40_counter section 2,
44_hybrid section 2). -/

namespace Sys2Proof.Machine

/-- Settles O6: the four values of a cell. -/
theorem counterLogicEquations : Obligations.CounterLogicEquations := by
  unfold Obligations.CounterLogicEquations
  decide

/-- The drive of the chooser by the two correctness flags (44_hybrid R106). -/
theorem choDrive_eq : ∀ gc bc : Bool,
    choDrive gc bc = if gc && !bc then .inc else if bc && !gc then .dec else .hold := by decide

/-- Settles O7: the four pairs of flags, and what each micro-operation does to the number. -/
theorem chooserDriveIsTernary : Obligations.ChooserDriveIsTernary :=
  fun c gc bc => ⟨choDrive_eq gc bc, choUpd_toNat c gc bc⟩

variable (c : Counter) (taken : Bool) {g b : Bool}

/-- Sub-predictions that agree are both right or both wrong, and hold the chooser. -/
theorem choUpd_of_agree (g : Bool) : choUpd c (correctFlag g taken) (correctFlag g taken) = c := by
  cases correctFlag g taken <;> rfl

/-- Of two sub-predictions that disagree exactly one is right, and the chooser moves toward it. -/
theorem choUpd_of_disagree (h : g ≠ b) :
    choUpd c (correctFlag g taken) (correctFlag b taken) = if g = taken then inc c else dec c := by
  obtain rfl : b = !g := Bool.eq_not_of_ne h.symm
  cases g <;> cases taken <;> rfl

/-- Settles O20: the indexed chooser cell takes `choUpd`'s value, which is its own where the sub-predictions agree, and
no other chooser cell is written. -/
theorem chooserMovesOnlyOnDisagreement : Obligations.ChooserMovesOnlyOnDisagreement := by
  intro taken a s t hnext
  obtain ⟨-, -, rfl⟩ := performEvent_eq_next.1 hnext
  refine ⟨fun hagree j => ?_, fun hdisagree => ?_⟩
  · by_cases hj : j = choIndex a s
    · rw [hj, tblRead_hybridEvent_chooser, nextChooser, hagree, choUpd_of_agree]
    · exact tblRead_hybridEvent_other taken a s (.inr hj) (.inl (selectedCell_table_ne_cho a s).symm)
  · rw [tblRead_hybridEvent_chooser, nextChooser, choUpd_of_disagree _ _ hdisagree]

end Sys2Proof.Machine
end

section
/-! An event by the stored scheme: how it ends, and when exec performs it (45_system R122, R124). -/

namespace Sys2Proof.Machine

variable {s t : State} {m : Scheme} (e : Bool × Addr)

@[simp] theorem hybridEvent_ghr (taken : Bool) (a : Addr) (s : State) :
    (hybridEvent taken a s).ghr = histShift s.cfg.n.toNat s.ghr taken :=
  congrArg State.ghr (hybridEvent_eq taken a s)

/-- Every event counts itself and its misprediction and returns its two results. -/
theorem eventStep_eq (s : State) :
    eventStep s e = { s with
      mem := (eventStep s e).mem, ghr := (eventStep s e).ghr, npred := s.npred + 1
      nmisp := s.nmisp + (if eventPrediction s e.2 = e.1 then 0 else 1)
      response := some (.event (eventPrediction s e.2 == e.1) (eventPrediction s e.2)) } := by
  unfold eventStep eventPrediction
  split
  case h_1 => exact bimodalEvent_eq e.1 e.2 s
  case h_2 => exact gshareEvent_eq e.1 e.2 s
  case h_3 =>
    rw [hybridEvent_ghr]
    exact hybridEvent_eq e.1 e.2 s

@[simp] theorem eventStep_npred : (eventStep s e).npred = s.npred + 1 := by rw [eventStep_eq]

@[simp] theorem eventStep_nmisp :
    (eventStep s e).nmisp = s.nmisp + (if eventPrediction s e.2 = e.1 then 0 else 1) := by rw [eventStep_eq]

@[simp] theorem eventStep_response :
    (eventStep s e).response = some (.event (eventPrediction s e.2 == e.1) (eventPrediction s e.2)) := by
  rw [eventStep_eq]

/-- No event moves any cell by more than one. -/
theorem withinOne_eventStep (u : TableId) (j : Nat) : withinOne ((eventStep s e).tblRead u j) (s.tblRead u j) := by
  unfold eventStep
  split
  case h_1 => exact withinOne_driven s (updDrive e.1) ⟨.bim, bimIndex e.2 s⟩ u j
  case h_2 => exact withinOne_driven s (updDrive e.1) ⟨.gsh, gshIndex e.2 s⟩ u j
  case h_3 => exact withinOne_hybridEvent e.1 e.2 s u j

/-- A PU operation is an EVENT under its own scheme. -/
theorem exec_eventInstr_eq_performEvent (m : Scheme) (s : State) :
    ∃ s', exec (eventInstr m e.1 e.2) s = performEvent m s s' := by
  cases m <;> exact ⟨_, rfl⟩

theorem exec_eventInstr_of_notReady (h : s.phase ≠ .ready) :
    exec (eventInstr m e.1 e.2) s = .refused .eventOutsideReady := by
  obtain ⟨s', hs'⟩ := exec_eventInstr_eq_performEvent e m s
  rw [hs', performEvent_of_notReady h]

/-- In READY a PU operation that the stored scheme does not select is refused (log 11). -/
theorem exec_eventInstr_of_unselected (hr : s.phase = .ready) (hs : s.cfg.scheme ≠ m) :
    exec (eventInstr m e.1 e.2) s = .refused .operationNotSelected := by
  obtain ⟨s', hs'⟩ := exec_eventInstr_eq_performEvent e m s
  rw [hs', performEvent, if_pos hr, if_neg hs]

/-- A PU operation goes on in READY under its own scheme, and then it is the event. -/
theorem exec_eventInstr_eq_next :
    exec (eventInstr m e.1 e.2) s = .next t ↔ s.phase = .ready ∧ s.cfg.scheme = m ∧ t = eventStep s e := by
  constructor
  · intro h
    obtain ⟨s', hs'⟩ := exec_eventInstr_eq_performEvent e m s
    obtain ⟨hr, rfl, -⟩ := performEvent_eq_next.1 (hs'.symm.trans h)
    cases (exec_eventInstr hr e).symm.trans h
    exact ⟨hr, rfl, rfl⟩
  · rintro ⟨hr, rfl, rfl⟩
    exact exec_eventInstr hr e

@[simp] theorem isEvent_eventInstr (m : Scheme) (taken : Bool) (a : Addr) : (eventInstr m taken a).isEvent = true := by
  cases m <;> rfl

@[simp] theorem isConfigure_eventInstr (m : Scheme) (taken : Bool) (a : Addr) :
    (eventInstr m taken a).isConfigure = false := isConfigure_of_isEvent (isEvent_eventInstr m taken a)

/-- Settles O22: the instructions with a mode are the PU operations. -/
theorem unselectedOperationIsRefused : Obligations.UnselectedOperationIsRefused := by
  intro i m s hmode hr hs
  obtain ⟨taken, a, rfl⟩ := mode?_eq_some_iff.1 hmode
  exact exec_eventInstr_of_unselected (taken, a) hr hs

end Sys2Proof.Machine
end

section
/-! How an instruction goes on, said once: the five ends of exec. -/

namespace Sys2Proof.Machine

/-- The ways from `s` to a next state, with the instruction that takes each. -/
inductive ExecNext (s : State) : Instr → State → Prop
  /-- A CONFIGURE that passes the check (45_system R121). -/
  | construct {sc k m1 n m2} (hv : configCheck (some sc) k m1 n m2 = .noError) :
      ExecNext s (.configure (some sc) k m1 n m2) (s.construct ⟨sc, k, m1, n, m2⟩)
  /-- A CONFIGURE that does not (60_exceptions R141). -/
  | raise {sch k m1 n m2} (hv : configCheck sch k m1 n m2 ≠ .noError) :
      ExecNext s (.configure sch k m1 n m2) (s.raiseConfigError (configCheck sch k m1 n m2))
  /-- The PU operation of the stored scheme (45_system R122). -/
  | event (e : Bool × Addr) (hr : s.phase = .ready) : ExecNext s (eventInstr s.cfg.scheme e.1 e.2) (eventStep s e)
  /-- A REPORT (45_system R126, R130). -/
  | report (r : Response) (hp : s.phase ≠ .unconfigured) : ExecNext s .report (s.respond r)
  /-- A micro-operation at a cell that exists (40_counter R71 to R73). -/
  | drive {i} (op : MicroOp) {c : CellRef} (he : i.isEvent = false) (hi : i.isConfigure = false)
      (hc : s.hasCell c = true) : ExecNext s i (s.driven op c)

variable {i : Instr} {s t : State}

/-- exec goes on in no other way. -/
theorem execNext_of_exec (hnext : exec i s = .next t) : ExecNext s i t := by
  have hevent {m : Scheme} {taken : Bool} {a : Addr} (h : exec (eventInstr m taken a) s = .next t) :
      ExecNext s (eventInstr m taken a) t := by
    obtain ⟨hr, rfl, rfl⟩ := (exec_eventInstr_eq_next (taken, a)).1 h
    exact .event (taken, a) hr
  have hdrive {op : MicroOp} {c : CellRef} (he : i.isEvent = false) (hi : i.isConfigure = false)
      (h : driveCell op c s = .next t) : ExecNext s i t := by
    obtain ⟨hc, rfl⟩ := driveCell_eq_next.1 h
    exact .drive op he hi hc
  cases i with
  | configure sch k m1 n m2 =>
    obtain ⟨sc, rfl, hv, h⟩ | ⟨hv, h⟩ := execConfigure_cases (s := s) sch k m1 n m2
    · cases h.symm.trans hnext
      exact .construct hv
    · cases h.symm.trans hnext
      exact .raise hv
  | puBimodal taken a => exact hevent (m := .bimodal) hnext
  | puGshare taken a => exact hevent (m := .gshare) hnext
  | puHybrid taken a => exact hevent (m := .hybrid) hnext
  | report =>
    obtain ⟨-, h⟩ | ⟨hp, h⟩ | ⟨hp, h⟩ := execReport_cases (s := s)
    · cases h.symm.trans hnext
    · cases h.symm.trans hnext
      exact .report _ (by simp [hp])
    · cases h.symm.trans hnext
      exact .report _ (by simp [hp])
  | ctrHold => exact hdrive rfl rfl hnext
  | ctrDec => exact hdrive rfl rfl hnext
  | ctrInc => exact hdrive rfl rfl hnext

end Sys2Proof.Machine
end

section
/-! Which instruction writes what: cells, configuration, totals and history (10_state section 7). -/

namespace Sys2Proof.Machine

/-- A cell that does not exist cannot be driven (log 12). -/
theorem driveCell_of_missing {s : State} {c : CellRef} (op : MicroOp) (h : s.hasCell c = false) :
    driveCell op c s = .fault .noSuchCell := by simp [driveCell, h]

/-- Settles O4: each of the three is a drive of the cell. -/
theorem drivingAMissingCellFaults : Obligations.DrivingAMissingCellFaults :=
  fun _ _ _ h => ⟨driveCell_of_missing .inc h, driveCell_of_missing .dec h, driveCell_of_missing .hold h⟩

/-- Settles O5: cells are written by events and drives alone, and each moves a cell by at most one. -/
theorem cellsMoveByAtMostOne : Obligations.CellsMoveByAtMostOne := by
  intro i s t hi hnext u j
  cases execNext_of_exec hnext with
  | construct => cases hi
  | raise => cases hi
  | event e => exact withinOne_eventStep e u j
  | report => exact withinOne_refl _
  | drive op => exact withinOne_driven s op _ u j

/-- Settles O28: which state exists is a function of `PHASE` and `CFG.*`, which only CONFIGURE writes. -/
theorem onlyConfigureWritesTheConfiguration : Obligations.OnlyConfigureWritesTheConfiguration := by
  intro i s t hi hnext
  obtain ⟨hcfg, hphase, herr⟩ := exec_keeps_cfg_phase_err hi hnext
  exact ⟨hcfg, hphase, herr, size_congr hphase hcfg, ghrWidth_congr hphase hcfg⟩

/-- PU.BIMODAL does not write the history. -/
theorem exec_puBimodal_ghr {taken : Bool} {a : Addr} {s t : State} (h : exec (.puBimodal taken a) s = .next t) :
    t.ghr = s.ghr := by
  obtain ⟨-, -, rfl⟩ := performEvent_eq_next.1 h
  rfl

/-- Settles O29: the three clauses are about an event, a CONFIGURE and the rest. -/
theorem writersOfTotalsAndHistory : Obligations.WritersOfTotalsAndHistory := by
  intro i s t hnext
  have hbimodal (taken : Bool) (a : Addr) (hi : i = .puBimodal taken a) : t.ghr = s.ghr :=
    exec_puBimodal_ghr (hi ▸ hnext)
  refine ⟨fun he => ?event, fun hi => ?configure, fun he hi => ?other, hbimodal⟩
  case event =>
    cases execNext_of_exec hnext with
    | event e => exact ⟨eventStep_npred e, _, _, eventStep_response e, by simp⟩
    | drive op hne => cases hne.symm.trans he
    | _ => cases he
  case configure =>
    cases execNext_of_exec hnext with
    | construct => exact ⟨rfl, rfl, rfl⟩
    | raise => exact ⟨rfl, rfl, rfl⟩
    | event e => simp at hi
    | report => cases hi
    | drive op _ hni => cases hni.symm.trans hi
  case other =>
    cases execNext_of_exec hnext with
    | event e => simp at he
    | report => exact ⟨rfl, rfl, rfl⟩
    | drive => exact ⟨rfl, rfl, rfl⟩
    | _ => cases hi

/-- Settles O30: at power-on no predictor exists; an event needs READY, a REPORT a predictor or an error, and a drive
a cell, of which UNCONFIGURED has none. -/
theorem unconfiguredAcceptsConfigureOnly : Obligations.UnconfiguredAcceptsConfigureOnly := by
  refine ⟨⟨rfl, rfl, size_notReady (by decide), ghrWidth_notReady (by decide)⟩, fun i s t hp hnext => ?_⟩
  have hnotReady : s.phase ≠ .ready := by simp [hp]
  cases execNext_of_exec hnext with
  | construct => rfl
  | raise => rfl
  | event e hr => exact absurd hr hnotReady
  | report r hp' => exact absurd hp hp'
  | drive op _ _ hc => simp [State.hasCell, size_notReady hnotReady] at hc

end Sys2Proof.Machine
end

section
/-! CONFIGURE's new predictor, and REPORT repeated (45_system R121, R131). -/

namespace Sys2Proof.Machine

variable (s : State)

/-- The new predictor has the tables its scheme owns. -/
theorem size_construct (c : Cfg) (u : TableId) :
    (s.construct c).size u = if schemeOwns c.scheme u then 2 ^ tableExponent u c else 0 := rfl

theorem ghrWidth_construct (c : Cfg) :
    (s.construct c).ghrWidth = if schemeOwns c.scheme .gsh then c.n.toNat else 0 := rfl

/-- Settles O23: an accepted CONFIGURE is `construct`, whose tables list no cell and have the size of their scheme, and
every other one raises the check's code. -/
theorem configureConstructsOrRaises : Obligations.ConfigureConstructsOrRaises := by
  intro sch k m1 n m2 s
  refine ⟨rfl, fun sc hsc hv => ?valid, exec_configure_of_invalid s⟩
  case valid =>
    subst hsc
    refine ⟨_, exec_configure_of_valid s hv, rfl, rfl, rfl, rfl, rfl, rfl, rfl, rfl, rfl, ?bim, ?gsh, ?cho, ?ghr,
      fun i => ⟨tblRead_construct _ .bim i, tblRead_construct _ .gsh i, tblRead_construct _ .cho i⟩⟩
    case bim => rw [size_construct]; cases sc <;> rfl
    case gsh => rw [size_construct]; cases sc <;> rfl
    case cho => rw [size_construct]; cases sc <;> rfl
    case ghr => rw [ghrWidth_construct]; cases sc <;> rfl

/-- Settles O33: REPORT returns a result and writes nothing that a REPORT reads. -/
theorem reportIsRepeatable : Obligations.ReportIsRepeatable := by
  intro s t hnext
  obtain ⟨-, h⟩ | ⟨hr, h⟩ | ⟨he, h⟩ := execReport_cases (s := s)
  · cases h.symm.trans hnext
  · cases h.symm.trans hnext
    exact exec_report_ready hr
  · cases h.symm.trans hnext
    exact exec_report_error he

end Sys2Proof.Machine
end

section
/-! A step on one presented input: decoding, waiting and the reset pin (30_encoding R64, 70_reset R155). -/

namespace Sys2Proof.Machine

variable {s : State}

/-- Performing a command is exec of its instruction under the stored scheme, also where an EVENT is refused. -/
theorem performCommand_eq_exec (c : Command) (s : State) :
    performCommand c s = exec (commandInstr s.cfg.scheme c) s := by
  cases c with
  | configure => rfl
  | event taken a =>
    by_cases hr : s.phase = .ready
    · exact if_pos hr
    · exact (if_neg hr).trans (exec_eventInstr_of_notReady (taken, a) hr).symm
  | report => rfl

/-- Performing an input is exec of the instruction it decodes to. -/
theorem performInput_eq_exec {x : Input} {i : Instr} (h : decodeInput s.cfg.scheme x = some i) :
    performInput x s = exec i s := by
  cases x with
  | command w =>
    cases hw : decodeCommand w with
    | error cls => simp [decodeInput, hw] at h
    | ok c =>
      cases (decodeInput_command hw).symm.trans h
      simp only [performInput, hw, performCommand_eq_exec]
  | control cell w =>
    cases h
    rfl
  | resetPin => cases h

/-- Settles O41: the step takes the input away and performs it; a placed table word leaves the list as it was. -/
theorem stepRunsTheDecodedInstruction : Obligations.StepRunsTheDecodedInstruction := by
  refine ⟨fun s x rest i hin hdec => ?_, fun s nbits w i hs hdec => ?_⟩
  · rw [step_cons hin]
    exact performInput_eq_exec hdec
  · have hin : (s.withFetchWord nbits w).input = tableInput nbits w :: s.input := rfl
    rw [step_cons hin]
    exact performInput_eq_exec (s := s) (hs.symm ▸ hdec)

/-- Settles O42: with no input there is nothing to perform. -/
theorem idleStepChangesNothing : Obligations.IdleStepChangesNothing := fun _ => step_nil

/-- Settles O43: the next state is `electricalReset`'s, and in UNCONFIGURED no predictor exists. -/
theorem resetPinUnconfigures : Obligations.ResetPinUnconfigures := by
  intro s rest hin
  have hnotReady : (s.setInput rest).electricalReset.phase ≠ .ready := by simp
  exact ⟨_, step_cons hin, rfl, rfl, rfl, size_notReady hnotReady, ghrWidth_notReady hnotReady⟩

end Sys2Proof.Machine
end

section
/-! The parts of an operation keep the invariant of the engine (10_state R17 to R19, 43_gshare R96). -/

namespace Sys2Proof.Machine

variable {s : State} {i : Nat} {u : TableId}

/-- Where no cell is listed, the parts of the invariant about the tables and the history hold. -/
theorem inv_of_empty (hmem : s.mem = .empty) (hghr : s.ghr = 0) (htotals : s.nmisp ≤ s.npred)
    (herr : s.err = .noError ↔ s.phase ≠ .error) (hcfg : s.phase = .ready → s.cfg.valid = true)
    (hzero : s.phase = .error → s.npred = 0 ∧ s.nmisp = 0) : s.Inv where
  memWf := hmem ▸ wf_empty
  cellsExist u := by rw [hmem, cells_empty]; rfl
  ghrBound := hghr ▸ Nat.two_pow_pos _
  totalsBound := htotals
  errPhase := herr
  cfgValid := hcfg
  errorTotals := hzero

theorem inv_construct {c : Cfg} (s : State) (hc : c.valid = true) : (s.construct c).Inv :=
  inv_of_empty rfl rfl le_rfl (by simp) (fun _ => hc) (fun h => by simp at h)

theorem inv_raiseConfigError {code : ErrCode} (s : State) (hcode : code ≠ .noError) : (s.raiseConfigError code).Inv :=
  inv_of_empty rfl rfl le_rfl (by simp [hcode]) (fun h => by simp at h) (fun _ => ⟨rfl, rfl⟩)

theorem inv_electricalReset (s : State) : s.electricalReset.Inv :=
  inv_of_empty rfl rfl (by simp) (by simp) (fun h => by simp at h) (fun h => by simp at h)

/-- Settles O47: at power-on no cell is listed, every number is 0 and the phase is UNCONFIGURED. -/
theorem resetMeetsTheInvariant : Obligations.ResetMeetsTheInvariant :=
  inv_of_empty rfl rfl le_rfl (by decide) (fun h => by cases h) (fun h => by cases h)

variable (h : s.Inv)
include h

/-- The invariant does not speak of the inputs still to come or of the last result. -/
theorem State.Inv.setInput (l : List Input) : (s.setInput l).Inv := { h with }

theorem State.Inv.respond (r : Response) : (s.respond r).Inv := { h with }

/-- A write to a cell that exists lists no other one. -/
theorem State.Inv.tblWrite (hi : i < s.size u) (v : Counter) : (s.tblWrite u i v).Inv :=
  { h with
    memWf := wf_write h.memWf
    cellsExist := fun u' => by
      show cellsBelow (s.size u') ((s.mem.write u i v).cells u') = true
      by_cases hu : u' = u
      · rw [hu, cells_write_same]
        exact cellsBelow_writeCells hi (h.cellsExist u)
      · rw [cells_write_other hu]
        exact h.cellsExist u' }

theorem State.Inv.driven (op : MicroOp) {c : CellRef} (hc : c.index < s.size c.table) : (s.driven op c).Inv :=
  h.tblWrite hc _

/-- Where there is a history register, a shift stays within its width. -/
theorem State.Inv.shiftHistory (ho : s.owns .gsh = true) (taken : Bool) : (s.shiftHistory taken).Inv :=
  { h with
    ghrBound := by
      have hwidth : (s.shiftHistory taken).ghrWidth = s.cfg.n.toNat := if_pos ho
      rw [hwidth]
      exact histShift_lt _ _ _ }

/-- An event's statistics keep `NMISP <= NPRED`; in ERROR there is no event. -/
theorem State.Inv.finishEvent (hr : s.phase = .ready) (predTaken taken : Bool) : (s.finishEvent predTaken taken).Inv :=
  { h with
    totalsBound := by
      have htotals := h.totalsBound
      rw [finishEvent_nmisp, finishEvent_npred]
      split <;> omega
    errorTotals := fun herror => absurd (hr.symm.trans herror) (by simp) }

end Sys2Proof.Machine
end

section
/-! The cells an event addresses exist, and so every instruction and every step keeps the invariant. -/

namespace Sys2Proof.Machine

variable {s t : State} {i : Instr}

/-- A valid configuration with a history has one no wider than the gshare index (60_exceptions R137). -/
theorem n_le_m1_of_valid {c : Cfg} (hv : c.valid = true) (ho : schemeOwns c.scheme .gsh = true) :
    c.n.toNat ≤ c.m1.toNat := by
  by_contra hlt
  simp [Cfg.valid, schemeCheck, ho, Nat.lt_of_not_le hlt] at hv

/-- The chooser index of an event selects a cell that exists. -/
theorem choIndex_lt_size (a : Addr) (hr : s.phase = .ready) (ho : schemeOwns s.cfg.scheme .cho = true) :
    choIndex a s < s.size .cho := by
  rw [size_ready hr ho]
  exact idxBimodal_lt _ _

theorem owns_ready {u : TableId} (hr : s.phase = .ready) (ho : schemeOwns s.cfg.scheme u = true) :
    s.owns u = true := by simp [State.owns, hr, ho]

section
variable (h : s.Inv) (hr : s.phase = .ready) (taken : Bool) (a : Addr)
include h hr

theorem State.Inv.bimodalEvent (hs : s.cfg.scheme = .bimodal) : (bimodalEvent taken a s).Inv :=
  (h.tblWrite (bimIndex_lt_size a hr (by rw [hs]; rfl)) _).finishEvent hr _ taken

/-- The gshare index selects a cell that exists. -/
theorem State.Inv.gshIndex_lt (ho : schemeOwns s.cfg.scheme .gsh = true) : gshIndex a s < s.size .gsh :=
  gshIndex_lt_size a hr ho (n_le_m1_of_valid (h.cfgValid hr) ho)

theorem State.Inv.gshareEvent (hs : s.cfg.scheme = .gshare) : (gshareEvent taken a s).Inv := by
  have ho : schemeOwns s.cfg.scheme .gsh = true := by rw [hs]; rfl
  exact ((h.tblWrite (h.gshIndex_lt hr a ho) _).shiftHistory (owns_ready hr ho) taken).finishEvent hr _ taken

/-- Whichever sub-table the chooser selects, the cell selected in it exists. -/
theorem State.Inv.selectedCell_lt (hs : s.cfg.scheme = .hybrid) :
    (selectedCell a s).index < s.size (selectedCell a s).table := by
  unfold selectedCell
  split
  · exact h.gshIndex_lt hr a (by rw [hs]; rfl)
  · exact bimIndex_lt_size a hr (by rw [hs]; rfl)

theorem State.Inv.hybridEvent (hs : s.cfg.scheme = .hybrid) : (hybridEvent taken a s).Inv := by
  have howns (u : TableId) : schemeOwns s.cfg.scheme u = true := by rw [hs]; cases u <;> rfl
  rw [Machine.hybridEvent, trainSelected_eq_driven]
  have htrained := h.driven (updDrive taken) (h.selectedCell_lt hr a hs)
  have hshifted := htrained.shiftHistory (owns_ready hr (howns .gsh)) taken
  have hchosen := hshifted.tblWrite (choIndex_lt_size a hr (howns .cho)) (nextChooser taken a s)
  exact hchosen.finishEvent hr _ taken

theorem State.Inv.eventStep (e : Bool × Addr) : (eventStep s e).Inv := by
  unfold Machine.eventStep
  split
  case h_1 hs => exact h.bimodalEvent hr e.1 e.2 hs
  case h_2 hs => exact h.gshareEvent hr e.1 e.2 hs
  case h_3 hs => exact h.hybridEvent hr e.1 e.2 hs

end

theorem inv_exec (h : s.Inv) (hnext : exec i s = .next t) : t.Inv := by
  cases execNext_of_exec hnext with
  | construct hv => exact inv_construct s (decide_eq_true hv)
  | raise hv => exact inv_raiseConfigError s hv
  | event e hr => exact h.eventStep hr e
  | report r => exact h.respond r
  | drive op _ _ hc => exact h.driven op (of_decide_eq_true hc)

/-- An input that goes on is the reset pin, or it decodes to an instruction. -/
theorem decodeInput_of_performInput {x : Input} (hnext : performInput x s = .next t) :
    x = .resetPin ∨ ∃ i, decodeInput s.cfg.scheme x = some i := by
  cases x with
  | command w =>
    cases hw : decodeCommand w with
    | error cls => simp [performInput, hw] at hnext
    | ok c => exact .inr ⟨_, decodeInput_command hw⟩
  | control cell w => exact .inr ⟨_, rfl⟩
  | resetPin => exact .inl rfl

theorem inv_performInput {x : Input} (h : s.Inv) (hnext : performInput x s = .next t) : t.Inv := by
  obtain rfl | ⟨i, hi⟩ := decodeInput_of_performInput hnext
  · cases hnext
    exact inv_electricalReset s
  · exact inv_exec h ((performInput_eq_exec hi).symm.trans hnext)

/-- Settles O48: an idle step changes nothing; a step with an input is an instruction or the reset pin. -/
theorem stepKeepsTheInvariant : Obligations.StepKeepsTheInvariant := by
  intro s t h hnext
  cases hin : s.input with
  | nil =>
    cases (step_nil hin).symm.trans hnext
    exact h
  | cons x rest => exact inv_performInput (h.setInput rest) ((step_cons hin).symm.trans hnext)

end Sys2Proof.Machine
end

section
/-! Traces: the totals count them (10_state R17, 45_system R124). -/

namespace Sys2Proof.Machine

variable {s : State}

@[simp] theorem foldl_eventStep_phase (evs : List (Bool × Addr)) : (evs.foldl eventStep s).phase = s.phase := by
  induction evs generalizing s with
  | nil => rfl
  | cons e evs ih => rw [List.foldl_cons, ih, eventStep_phase]

@[simp] theorem foldl_eventStep_cfg (evs : List (Bool × Addr)) : (evs.foldl eventStep s).cfg = s.cfg := by
  induction evs generalizing s with
  | nil => rfl
  | cons e evs ih => rw [List.foldl_cons, ih, eventStep_cfg]

theorem foldl_eventStep_npred (evs : List (Bool × Addr)) :
    (evs.foldl eventStep s).npred = s.npred + evs.length := by
  induction evs generalizing s with
  | nil => rfl
  | cons e evs ih =>
    rw [List.foldl_cons, ih, eventStep_npred, List.length_cons]
    omega

theorem foldl_eventStep_nmisp (evs : List (Bool × Addr)) :
    (evs.foldl eventStep s).nmisp = s.nmisp + mispredicted s evs := by
  induction evs generalizing s with
  | nil => rfl
  | cons e evs ih => rw [List.foldl_cons, ih, eventStep_nmisp, mispredicted, Nat.add_assoc]

/-- The inputs after a trace wait while it runs. -/
theorem foldl_eventStep_setInput (evs : List (Bool × Addr)) (l : List Input) :
    evs.foldl eventStep (s.setInput l) = (evs.foldl eventStep s).setInput l :=
  List.foldl_hom (·.setInput l) (fun t e => eventStep_setInput t e l)

/-- A presented trace runs to the fold of its events, the inputs after it left to come. -/
theorem runSteps_trace {rest : List Input} (evs : List (Bool × Addr)) (hr : s.phase = .ready)
    (hin : s.input = evs.map eventInput ++ rest) :
    runSteps evs.length s = .next ((evs.foldl eventStep s).setInput rest) := by
  rw [runSteps_events evs hr hin, foldl_eventStep_setInput]

/-- Settles O50: by induction over the trace each total grows by what the events add. -/
theorem totalsCountTheTrace : Obligations.TotalsCountTheTrace :=
  fun evs _ _ hr hin => ⟨_, runSteps_trace evs hr hin, (foldl_eventStep_phase evs).trans hr, foldl_eventStep_cfg evs,
    foldl_eventStep_npred evs, foldl_eventStep_nmisp evs⟩

end Sys2Proof.Machine
end

section
/-! Traces: the history register holds the last outcomes (43_gshare R97). -/

namespace Sys2Proof.Machine

variable {n h : Nat}

theorem foldl_histShift_lt (hh : h < 2 ^ n) (outs : List Bool) : outs.foldl (histShift n) h < 2 ^ n := by
  induction outs using List.reverseRecOn with
  | nil => exact hh
  | append_singleton outs o => rw [List.foldl_concat]; exact histShift_lt n _ o

/-- Counted down from the top, bit `j` is the outcome `j` events ago, or what stood as many places higher as there are
events. The induction is over the last outcome: it enters at the top and moves every other bit one further down. -/
theorem testBit_foldl_histShift (hh : h < 2 ^ n) (outs : List Bool) (j : Nat) (hj : j < n) :
    (outs.foldl (histShift n) h).testBit (n - 1 - j) =
      if j < outs.length then outs.reverse.getD j false else h.testBit (n - 1 - j + outs.length) := by
  induction outs using List.reverseRecOn generalizing j with
  | nil => rfl
  | append_singleton outs o ih =>
    rw [List.foldl_concat, List.length_append, List.reverse_concat]
    cases j with
    | zero => simpa using testBit_histShift_top hj (foldl_histShift_lt hh outs) o
    | succ j =>
      have hbelow : n - 1 - (j + 1) + 1 = n - 1 - j := by omega
      have hshifted : n - 1 - (j + 1) + (outs.length + 1) = n - 1 - j + outs.length := by omega
      rw [testBit_histShift_of_lt (by omega), hbelow, ih j (by omega), List.length_singleton, hshifted]
      simp

/-- Settles O51: the history over a trace is a fold of `hist_shift` over the outcomes. -/
theorem historyHoldsTheLastOutcomes : Obligations.HistoryHoldsTheLastOutcomes := by
  intro evs s rest hr hs hh hin
  have hghr := foldl_eventStep_ghr evs hs
  have hbits := testBit_foldl_histShift hh (evs.map Prod.fst)
  rw [List.length_map, ← hghr] at hbits
  refine ⟨_, runSteps_trace evs hr hin, hghr ▸ foldl_histShift_lt hh _, hbits, fun hzero j hlen hj => ?_⟩
  exact (hbits j hj).trans (by rw [if_neg (Nat.not_lt.2 hlen), hzero, Nat.zero_testBit])

/-- A number whose `n` bits are all alike. -/
theorem eq_of_testBit_eq {b : Bool} (hh : h < 2 ^ n) (hb : ∀ j, j < n → h.testBit j = b) :
    h = if b then 2 ^ n - 1 else 0 := by
  refine Nat.eq_of_testBit_eq fun j => ?_
  rcases Nat.lt_or_ge j n with hj | hj
  · rw [hb j hj]
    cases b <;> simp [hj]
  · rw [Nat.testBit_lt_two_pow (hh.trans_le (Nat.pow_le_pow_right Nat.two_pos hj))]
    cases b <;> simp [Nat.not_lt.2 hj]

/-- Settles O52: after `N` events every bit of the history is one of their outcomes. -/
theorem historyFillsAndEmpties : Obligations.HistoryFillsAndEmpties := by
  intro evs s rest hr hs hh hin hlen
  obtain ⟨t, hrun, hlt, hbits, -⟩ := historyHoldsTheLastOutcomes evs s rest hr hs hh hin
  have hconst {b : Bool} (hall : ∀ e ∈ evs, e.1 = b) (j : Nat) (hj : j < s.cfg.n.toNat) : t.ghr.testBit j = b := by
    have hback : s.cfg.n.toNat - 1 - (s.cfg.n.toNat - 1 - j) = j := by omega
    have hidx : s.cfg.n.toNat - 1 - j < (evs.map Prod.fst).reverse.length := by simp; omega
    have hbit := hbits (s.cfg.n.toNat - 1 - j) (by omega)
    rw [hback, if_pos (by omega), List.getD_eq_getElem _ _ hidx] at hbit
    have hmem := List.getElem_mem hidx
    rw [← hbit, List.mem_reverse, List.mem_map] at hmem
    obtain ⟨e, he, heq⟩ := hmem
    exact heq.symm.trans (hall e he)
  exact ⟨t, hrun, fun hall => eq_of_testBit_eq hlt (hconst hall), fun hall => eq_of_testBit_eq hlt (hconst hall)⟩

end Sys2Proof.Machine
end

section
/-! With `N = 0` a gshare engine runs as a bimodal one: a relation between the two that every event keeps
(43_gshare R101). -/

namespace Sys2Proof.Machine

/-- A bimodal engine `b` and a gshare engine `g` without history that hold the same cells, totals and result. -/
structure HistoryFreeTwin (b g : State) : Prop where
  bimodal : b.cfg.scheme = .bimodal
  gshare : g.cfg.scheme = .gshare
  noHistory : g.cfg.n = 0
  exponent : g.cfg.m1 = b.cfg.m2
  ghr : g.ghr = 0
  cells : ∀ i, g.tblRead .gsh i = b.tblRead .bim i
  npred : g.npred = b.npred
  nmisp : g.nmisp = b.nmisp
  response : g.response = b.response

variable {b g : State} (h : HistoryFreeTwin b g)
include h

/-- An address selects the same cell in both. -/
theorem HistoryFreeTwin.index (a : Addr) : gshIndex a g = bimIndex a b := by
  rw [gshIndex, h.noHistory, h.exponent]
  exact idxGshare_noHistory _ _ _

theorem HistoryFreeTwin.prediction (a : Addr) : eventPrediction g a = eventPrediction b a := by
  rw [eventPrediction, eventPrediction, h.gshare, h.bimodal]
  exact congrArg isTaken (h.index a ▸ h.cells _)

/-- Both train that cell by the outcome and no other. -/
theorem HistoryFreeTwin.cells_eventStep (e : Bool × Addr) (i : Nat) :
    (eventStep g e).tblRead .gsh i = (eventStep b e).tblRead .bim i := by
  rw [eventStep, eventStep, h.gshare, h.bimodal]
  show (gshareEvent e.1 e.2 g).tblRead .gsh i = (bimodalEvent e.1 e.2 b).tblRead .bim i
  by_cases hi : i = bimIndex e.2 b
  · rw [hi, tblRead_bimodalEvent_same, ← h.index, tblRead_gshareEvent_same, h.cells]
  · rw [tblRead_bimodalEvent_other _ _ _ (.inr hi), tblRead_gshareEvent_other _ _ _ (.inr (h.index e.2 ▸ hi)), h.cells]

theorem HistoryFreeTwin.eventStep (e : Bool × Addr) : HistoryFreeTwin (eventStep b e) (eventStep g e) where
  bimodal := by rw [eventStep_cfg, h.bimodal]
  gshare := by rw [eventStep_cfg, h.gshare]
  noHistory := by rw [eventStep_cfg, h.noHistory]
  exponent := by rw [eventStep_cfg, eventStep_cfg, h.exponent]
  ghr := by rw [eventStep_ghr e (by simp [h.gshare]), h.noHistory]; rfl
  cells := h.cells_eventStep e
  npred := by rw [eventStep_npred, eventStep_npred, h.npred]
  nmisp := by rw [eventStep_nmisp, eventStep_nmisp, h.nmisp, h.prediction]
  response := by rw [eventStep_response, eventStep_response, h.prediction]

theorem HistoryFreeTwin.foldl_eventStep (evs : List (Bool × Addr)) :
    HistoryFreeTwin (evs.foldl Machine.eventStep b) (evs.foldl Machine.eventStep g) := by
  induction evs generalizing b g with
  | nil => exact h
  | cons e evs ih => exact ih (h.eventStep e)

end Sys2Proof.Machine
end

section
/-! The statement about gshare without history. -/

namespace Sys2Proof.Machine

/-- Settles O54: the two engines are twins, every event keeps them so, and the trace is a fold of its events. -/
theorem gshareWithoutHistoryIsBimodal : Obligations.GshareWithoutHistoryIsBimodal := by
  intro evs b g restB restG hb hg hbs hgs hn hm1 hghr hcells hnpred hnmisp hresponse hinB hinG
  have htwin : HistoryFreeTwin b g := ⟨hbs, hgs, hn, hm1, hghr, hcells, hnpred, hnmisp, hresponse⟩
  have hend := htwin.foldl_eventStep evs
  refine ⟨_, _, runSteps_trace evs hb hinB, runSteps_trace evs hg hinG, hend.cells, hend.ghr, hend.npred, hend.nmisp,
    hend.response, fun hzero => ?oneCell⟩
  case oneCell =>
    rw [size_ready (by simpa using hg) (by simp [hgs, schemeOwns])]
    simp [tableExponent, hzero]

end Sys2Proof.Machine
end
